-- ==== Sys2Proof/Word.lean ====
section
/-! DEFINITION. The word types of the danndy8 CHIP-8 core (spec R6, R8, R9): every value is unsigned. -/

namespace Sys2Proof

/-- A memory cell, a general register, a timer, an immediate KK (R6 CELL_WIDTH, R21, R33). -/
abbrev Byte := BitVec 8

/-- An instruction word, the program counter, the index register, a stack slot (R6, R24, R30, R31, R90). -/
abbrev Word := BitVec 16

/-- A 4-bit field of an instruction: the group, a sub-selector, a row count N (R91, R92). -/
abbrev Nibble := BitVec 4

/-- A register selector X or Y: the index 0..15 of a general register (R21, R92). -/
abbrev Reg := BitVec 4

/-- The 12-bit address field NNN (R92). -/
abbrev Addr12 := BitVec 12

/-- The selector of the flag register VF, which is register 15 and nothing else (R22). -/
abbrev flagReg : Reg := 0xF#4

end Sys2Proof
end

