-- ==== Sys2Proof/Config.lean ====
section
/-! DEFINITION. What an implementation fixes: the fixed parameters of spec R6, the open parameters GLYPHS and
DRAW_OOB of R7 (a record held in the state, so that every claim is about every value of them) and the RAND oracle of
R7 (a free value: an opaque constant). -/

namespace Sys2Proof

/-- MEM_SIZE (R6): addresses 0x000 to 0xFFF exist (R60). -/
@[simp] def memSize : Nat := 4096

/-- GLYPH_COUNT x GLYPH_SIZE (R6): the glyph table is 0x000 to 0x04F (R38, R63). -/
@[simp] def glyphBytes : Nat := 80

/-- FB_SIZE (R6): 64 x 32 pixels (R34). -/
@[simp] def fbSize : Nat := 2048

/-- FB_W (R6): the row stride of the linear pixel index (R34, R242). -/
@[simp] def fbWidth : Nat := 64

/-- STACK_DEPTH (R6): 16 slots (R31). -/
@[simp] def stackDepth : Nat := 16

/-- PROG_BASE (R6): the initial pc and the load address (R320, R322). -/
@[simp] def progBase : Nat := 0x200

/-- MAX_IMAGE (R6): the longest program image (R304, R320). -/
@[simp] def maxImage : Nat := 3584

/-- DRAW_OOB (R7): what DXYN does with a set sprite bit whose index is 2048 or more (R244). -/
inductive DrawOob where
  | clip
  | fault
  deriving DecidableEq, Repr

/-- The contents of the glyph table: 80 bytes, glyph d at 5d to 5d + 4 (R7 GLYPHS, R38). -/
abbrev Glyphs := Vector Byte 80

/-- The parameters the source leaves open and a model takes as arguments (R7): GLYPHS and DRAW_OOB. -/
structure Config where
  glyphs : Glyphs
  drawOob : DrawOob
  deriving DecidableEq, Repr

/-- The default GLYPHS: the table of R39, one line a digit. The bytes are from general knowledge, not in the source
(U10, log 4): PRESUMED, unsafe where a claim rests on them. -/
def defaultGlyphs : Glyphs :=
  #v[0xF0#8, 0x90#8, 0x90#8, 0x90#8, 0xF0#8,
     0x20#8, 0x60#8, 0x20#8, 0x20#8, 0x70#8,
     0xF0#8, 0x10#8, 0xF0#8, 0x80#8, 0xF0#8,
     0xF0#8, 0x10#8, 0xF0#8, 0x10#8, 0xF0#8]
  ++ #v[0x90#8, 0x90#8, 0xF0#8, 0x10#8, 0x10#8,
     0xF0#8, 0x80#8, 0xF0#8, 0x10#8, 0xF0#8,
     0xF0#8, 0x80#8, 0xF0#8, 0x90#8, 0xF0#8,
     0xF0#8, 0x10#8, 0x20#8, 0x40#8, 0x40#8]
  ++ #v[0xF0#8, 0x90#8, 0xF0#8, 0x90#8, 0xF0#8,
     0xF0#8, 0x90#8, 0xF0#8, 0x10#8, 0xF0#8,
     0xF0#8, 0x90#8, 0xF0#8, 0x90#8, 0x90#8,
     0xE0#8, 0x90#8, 0xE0#8, 0x90#8, 0xE0#8]
  ++ #v[0xF0#8, 0x80#8, 0x80#8, 0x80#8, 0xF0#8,
     0xE0#8, 0x90#8, 0x90#8, 0x90#8, 0xE0#8,
     0xF0#8, 0x80#8, 0xF0#8, 0x80#8, 0xF0#8,
     0xF0#8, 0x80#8, 0xF0#8, 0x80#8, 0x80#8]

/-- The parameters at their spec defaults (R7): the table of R39 and Clip (log 4, log 5). -/
def Config.default : Config := { glyphs := defaultGlyphs, drawOob := .clip }

/-- RAND (R7, R162, D23, log 6): the byte the oracle answers at its n-th draw. A FREE VALUE: it has no body, so nothing
can be proved about the byte and every claim holds for each value of it (safe). -/
opaque Config.randomByte : Nat → Byte

end Sys2Proof
end

