-- ==== Sys2Proof/Syntax.lean ====
section
/-! DEFINITION. The instruction set: one constructor per class of spec R94 (spec/opcode_table.json), named by the
class pattern, which is the spec's own name of an instruction (R100). -/

namespace Sys2Proof

/-- The 33 instruction classes (R2, R94) with their operands (R92): X and Y register selectors, KK an immediate byte,
NNN an address, N a row count. Every operand is a bit field of the word, so no instruction has an operand out of range. -/
inductive Instr where
  | op00E0
  | op00EE
  | op1NNN (nnn : Addr12)
  | op2NNN (nnn : Addr12)
  | op3XKK (x : Reg) (kk : Byte)
  | op4XKK (x : Reg) (kk : Byte)
  | op5XY0 (x y : Reg)
  | op6XKK (x : Reg) (kk : Byte)
  | op7XKK (x : Reg) (kk : Byte)
  | op8XY0 (x y : Reg)
  | op8XY1 (x y : Reg)
  | op8XY2 (x y : Reg)
  | op8XY3 (x y : Reg)
  | op8XY4 (x y : Reg)
  | op8XY5 (x y : Reg)
  | op8XY6 (x y : Reg)
  | op8XY7 (x y : Reg)
  | op8XYE (x y : Reg)
  | op9XY0 (x y : Reg)
  | opANNN (nnn : Addr12)
  | opBNNN (nnn : Addr12)
  | opCXKK (x : Reg) (kk : Byte)
  | opDXYN (x y : Reg) (n : Nibble)
  | opEX9E (x : Reg)
  | opEXA1 (x : Reg)
  | opFX07 (x : Reg)
  | opFX15 (x : Reg)
  | opFX18 (x : Reg)
  | opFX1E (x : Reg)
  | opFX29 (x : Reg)
  | opFX33 (x : Reg)
  | opFX55 (x : Reg)
  | opFX65 (x : Reg)
  deriving DecidableEq, Repr

/-- The class pattern of an instruction: the primary name the spec gives it (R100). -/
def Instr.cls : Instr → String
  | .op00E0 => "00E0"
  | .op00EE => "00EE"
  | .op1NNN _ => "1NNN"
  | .op2NNN _ => "2NNN"
  | .op3XKK _ _ => "3XKK"
  | .op4XKK _ _ => "4XKK"
  | .op5XY0 _ _ => "5XY0"
  | .op6XKK _ _ => "6XKK"
  | .op7XKK _ _ => "7XKK"
  | .op8XY0 _ _ => "8XY0"
  | .op8XY1 _ _ => "8XY1"
  | .op8XY2 _ _ => "8XY2"
  | .op8XY3 _ _ => "8XY3"
  | .op8XY4 _ _ => "8XY4"
  | .op8XY5 _ _ => "8XY5"
  | .op8XY6 _ _ => "8XY6"
  | .op8XY7 _ _ => "8XY7"
  | .op8XYE _ _ => "8XYE"
  | .op9XY0 _ _ => "9XY0"
  | .opANNN _ => "ANNN"
  | .opBNNN _ => "BNNN"
  | .opCXKK _ _ => "CXKK"
  | .opDXYN _ _ _ => "DXYN"
  | .opEX9E _ => "EX9E"
  | .opEXA1 _ => "EXA1"
  | .opFX07 _ => "FX07"
  | .opFX15 _ => "FX15"
  | .opFX18 _ => "FX18"
  | .opFX1E _ => "FX1E"
  | .opFX29 _ => "FX29"
  | .opFX33 _ => "FX33"
  | .opFX55 _ => "FX55"
  | .opFX65 _ => "FX65"

/-- The operand fields of an instruction word (R92). -/
inductive Field where
  | nnn
  | x
  | y
  | kk
  | n
  deriving DecidableEq, Repr

/-- The operands of an instruction as the numbers its word carries, each under its field (R91, R92). -/
def Instr.operands : Instr → List (Field × Nat)
  | .op00E0 | .op00EE => []
  | .op1NNN a | .op2NNN a | .opANNN a | .opBNNN a => [(.nnn, a.toNat)]
  | .op3XKK x kk | .op4XKK x kk | .op6XKK x kk | .op7XKK x kk | .opCXKK x kk => [(.x, x.toNat), (.kk, kk.toNat)]
  | .op5XY0 x y | .op8XY0 x y | .op8XY1 x y | .op8XY2 x y | .op8XY3 x y | .op8XY4 x y | .op8XY5 x y
  | .op8XY6 x y | .op8XY7 x y | .op8XYE x y | .op9XY0 x y => [(.x, x.toNat), (.y, y.toNat)]
  | .opDXYN x y n => [(.x, x.toNat), (.y, y.toNat), (.n, n.toNat)]
  | .opEX9E x | .opEXA1 x | .opFX07 x | .opFX15 x | .opFX18 x | .opFX1E x | .opFX29 x | .opFX33 x | .opFX55 x
  | .opFX65 x => [(.x, x.toNat)]

end Sys2Proof
end

