-- ==== Sys2Proof/WellFormed.lean ====
section
/-! DEFINITION. What a well-formed operand, instruction, instruction word and program image are (spec R92, R94, R304). -/

namespace Sys2Proof

/-- How many bits a field has, so that its value range is 0 to 2^width - 1 (R92). -/
def Field.width : Field → Nat
  | .nnn => 12
  | .x => 4
  | .y => 4
  | .kk => 8
  | .n => 4

/-- The number fits its field (R92, the value range column). -/
def Field.admits (f : Field) (value : Nat) : Bool := decide (value < 2 ^ f.width)

/-- An instruction is well formed when every operand it carries fits its field (R92). The operand types make this true
of every value of Instr (Laws/Encoding.lean, `wellFormed_all`): no instruction is shut out. -/
def Instr.wellFormed (i : Instr) : Bool := i.operands.all fun p => p.1.admits p.2

/-- One row of the opcode map (R94): a word selects the class when its bits under the mask equal the match. -/
structure OpcodeRow where
  cls : String
  pattern : Word
  mask : Word
  deriving DecidableEq, Repr

/-- The word selects the row: `op AND mask = match` (R94). -/
def OpcodeRow.selects (r : OpcodeRow) (op : Word) : Bool := op &&& r.mask == r.pattern

/-- The opcode map, row by row as R94 prints it. -/
def opcodeMap : List OpcodeRow :=
  [⟨"00E0", 0x00E0#16, 0xFFFF#16⟩,
   ⟨"00EE", 0x00EE#16, 0xFFFF#16⟩,
   ⟨"1NNN", 0x1000#16, 0xF000#16⟩,
   ⟨"2NNN", 0x2000#16, 0xF000#16⟩,
   ⟨"3XKK", 0x3000#16, 0xF000#16⟩,
   ⟨"4XKK", 0x4000#16, 0xF000#16⟩,
   ⟨"5XY0", 0x5000#16, 0xF00F#16⟩,
   ⟨"6XKK", 0x6000#16, 0xF000#16⟩,
   ⟨"7XKK", 0x7000#16, 0xF000#16⟩,
   ⟨"8XY0", 0x8000#16, 0xF00F#16⟩,
   ⟨"8XY1", 0x8001#16, 0xF00F#16⟩,
   ⟨"8XY2", 0x8002#16, 0xF00F#16⟩,
   ⟨"8XY3", 0x8003#16, 0xF00F#16⟩,
   ⟨"8XY4", 0x8004#16, 0xF00F#16⟩,
   ⟨"8XY5", 0x8005#16, 0xF00F#16⟩,
   ⟨"8XY6", 0x8006#16, 0xF00F#16⟩,
   ⟨"8XY7", 0x8007#16, 0xF00F#16⟩]
  ++ [⟨"8XYE", 0x800E#16, 0xF00F#16⟩,
   ⟨"9XY0", 0x9000#16, 0xF00F#16⟩,
   ⟨"ANNN", 0xA000#16, 0xF000#16⟩,
   ⟨"BNNN", 0xB000#16, 0xF000#16⟩,
   ⟨"CXKK", 0xC000#16, 0xF000#16⟩,
   ⟨"DXYN", 0xD000#16, 0xF000#16⟩,
   ⟨"EX9E", 0xE09E#16, 0xF0FF#16⟩,
   ⟨"EXA1", 0xE0A1#16, 0xF0FF#16⟩,
   ⟨"FX07", 0xF007#16, 0xF0FF#16⟩,
   ⟨"FX15", 0xF015#16, 0xF0FF#16⟩,
   ⟨"FX18", 0xF018#16, 0xF0FF#16⟩,
   ⟨"FX1E", 0xF01E#16, 0xF0FF#16⟩,
   ⟨"FX29", 0xF029#16, 0xF0FF#16⟩,
   ⟨"FX33", 0xF033#16, 0xF0FF#16⟩,
   ⟨"FX55", 0xF055#16, 0xF0FF#16⟩,
   ⟨"FX65", 0xF065#16, 0xF0FF#16⟩]

/-- A word is well formed as an instruction when some row of R94 selects it; every other word is unrecognized (R96). -/
def wordWellFormed (op : Word) : Bool := opcodeMap.any fun r => r.selects op

/-- A program image fits memory from 0x200 (R304, R320): its length is at most 3584. -/
def imageWellFormed (image : List Byte) : Bool := decide (image.length ≤ maxImage)

end Sys2Proof
end

