-- ==== Sys2Proof/Decode.lean ====
section
/-! DEFINITION. Fields, the decoder (spec R93), the encoder (R91, R94) and the assembler forms (R100). -/

namespace Sys2Proof

/-- The group op[15:12] (R91 `class`, R93). -/
def opGroup (op : Word) : Nibble := op.extractLsb' 12 4

/-- X = op[11:8] (R8, R92). -/
def opX (op : Word) : Reg := op.extractLsb' 8 4

/-- Y = op[7:4] (R8, R92). -/
def opY (op : Word) : Reg := op.extractLsb' 4 4

/-- N = op[3:0] (R8, R92), also the sub-selector of format XY (R91). -/
def opN (op : Word) : Nibble := op.extractLsb' 0 4

/-- KK = op[7:0] (R8, R92), also the sub-selector of formats Z and XS (R91). -/
def opKK (op : Word) : Byte := op.extractLsb' 0 8

/-- NNN = op[11:0] (R8, R92). -/
def opNNN (op : Word) : Addr12 := op.extractLsb' 0 12

/-- Why the decoder refuses: a word that is no class (R96), or fewer than the two bytes of a word. -/
inductive DecodeReject where
  | unrecognized (op : Word)
  | truncated
  deriving DecidableEq, Repr

/-- Group 8, by op[3:0] (R93). -/
def decodeAlu (op : Word) : Except DecodeReject Instr :=
  match opN op with
  | 0x0#4 => .ok (.op8XY0 (opX op) (opY op))
  | 0x1#4 => .ok (.op8XY1 (opX op) (opY op))
  | 0x2#4 => .ok (.op8XY2 (opX op) (opY op))
  | 0x3#4 => .ok (.op8XY3 (opX op) (opY op))
  | 0x4#4 => .ok (.op8XY4 (opX op) (opY op))
  | 0x5#4 => .ok (.op8XY5 (opX op) (opY op))
  | 0x6#4 => .ok (.op8XY6 (opX op) (opY op))
  | 0x7#4 => .ok (.op8XY7 (opX op) (opY op))
  | 0xE#4 => .ok (.op8XYE (opX op) (opY op))
  | _ => .error (.unrecognized op)

/-- Group F, by op[7:0] (R93). -/
def decodeMisc (op : Word) : Except DecodeReject Instr :=
  if opKK op = 0x07#8 then .ok (.opFX07 (opX op))
  else if opKK op = 0x15#8 then .ok (.opFX15 (opX op))
  else if opKK op = 0x18#8 then .ok (.opFX18 (opX op))
  else if opKK op = 0x1E#8 then .ok (.opFX1E (opX op))
  else if opKK op = 0x29#8 then .ok (.opFX29 (opX op))
  else if opKK op = 0x33#8 then .ok (.opFX33 (opX op))
  else if opKK op = 0x55#8 then .ok (.opFX55 (opX op))
  else if opKK op = 0x65#8 then .ok (.opFX65 (opX op))
  else .error (.unrecognized op)

/-- The decode procedure of R93, total on all 65536 words (R99): the class by the group, then by the sub-selector. The
literal digits of 00E0, 00EE, 5XY0 and 9XY0 are compared (C2, D34, log 11). -/
def decode (op : Word) : Except DecodeReject Instr :=
  match opGroup op with
  | 0x0#4 => if op = 0x00E0#16 then .ok .op00E0 else if op = 0x00EE#16 then .ok .op00EE else .error (.unrecognized op)
  | 0x1#4 => .ok (.op1NNN (opNNN op))
  | 0x2#4 => .ok (.op2NNN (opNNN op))
  | 0x3#4 => .ok (.op3XKK (opX op) (opKK op))
  | 0x4#4 => .ok (.op4XKK (opX op) (opKK op))
  | 0x5#4 => if opN op = 0x0#4 then .ok (.op5XY0 (opX op) (opY op)) else .error (.unrecognized op)
  | 0x6#4 => .ok (.op6XKK (opX op) (opKK op))
  | 0x7#4 => .ok (.op7XKK (opX op) (opKK op))
  | 0x8#4 => decodeAlu op
  | 0x9#4 => if opN op = 0x0#4 then .ok (.op9XY0 (opX op) (opY op)) else .error (.unrecognized op)
  | 0xA#4 => .ok (.opANNN (opNNN op))
  | 0xB#4 => .ok (.opBNNN (opNNN op))
  | 0xC#4 => .ok (.opCXKK (opX op) (opKK op))
  | 0xD#4 => .ok (.opDXYN (opX op) (opY op) (opN op))
  | 0xE#4 =>
    if opKK op = 0x9E#8 then .ok (.opEX9E (opX op))
    else if opKK op = 0xA1#8 then .ok (.opEXA1 (opX op))
    else .error (.unrecognized op)
  | _ => decodeMisc op

/-- The instruction word of two bytes, the high byte first: `hi ++ lo` (R69, R90). -/
def joinBytes (hi lo : Byte) : Word := hi ++ lo

/-- The high byte of a word, which the hardware stores at the lower address (R69). -/
def highByte (op : Word) : Byte := op.extractLsb' 8 8

/-- The low byte of a word, which the hardware stores at the higher address (R69). -/
def lowByte (op : Word) : Byte := op.extractLsb' 0 8

/-- The decoder over bytes: one instruction and the bytes after it. Every instruction is two bytes (R90). -/
def decodeBytes : List Byte → Except DecodeReject (Instr × List Byte)
  | hi :: lo :: rest =>
    match decode (joinBytes hi lo) with
    | .ok i => .ok (i, rest)
    | .error r => .error r
  | _ => .error .truncated

/-- Format A (R91): class, NNN. -/
def packA (c : Nibble) (nnn : Addr12) : Word := c ++ nnn

/-- Format XK (R91): class, X, KK. Format XS (R91) has the same shape with the sub-selector byte for KK. -/
def packXK (c : Nibble) (x : Reg) (kk : Byte) : Word := c ++ x ++ kk

/-- Formats XY and XYN (R91): class, X, Y and the sub-selector or N. -/
def packXYN (c : Nibble) (x y : Reg) (n : Nibble) : Word := c ++ x ++ y ++ n

/-- The word of an instruction (R91, R94): its class digits and its operands in their fields. -/
def encode : Instr → Word
  | .op00E0 => 0x00E0#16
  | .op00EE => 0x00EE#16
  | .op1NNN nnn => packA 0x1#4 nnn
  | .op2NNN nnn => packA 0x2#4 nnn
  | .op3XKK x kk => packXK 0x3#4 x kk
  | .op4XKK x kk => packXK 0x4#4 x kk
  | .op5XY0 x y => packXYN 0x5#4 x y 0x0#4
  | .op6XKK x kk => packXK 0x6#4 x kk
  | .op7XKK x kk => packXK 0x7#4 x kk
  | .op8XY0 x y => packXYN 0x8#4 x y 0x0#4
  | .op8XY1 x y => packXYN 0x8#4 x y 0x1#4
  | .op8XY2 x y => packXYN 0x8#4 x y 0x2#4
  | .op8XY3 x y => packXYN 0x8#4 x y 0x3#4
  | .op8XY4 x y => packXYN 0x8#4 x y 0x4#4
  | .op8XY5 x y => packXYN 0x8#4 x y 0x5#4
  | .op8XY6 x y => packXYN 0x8#4 x y 0x6#4
  | .op8XY7 x y => packXYN 0x8#4 x y 0x7#4
  | .op8XYE x y => packXYN 0x8#4 x y 0xE#4
  | .op9XY0 x y => packXYN 0x9#4 x y 0x0#4
  | .opANNN nnn => packA 0xA#4 nnn
  | .opBNNN nnn => packA 0xB#4 nnn
  | .opCXKK x kk => packXK 0xC#4 x kk
  | .opDXYN x y n => packXYN 0xD#4 x y n
  | .opEX9E x => packXK 0xE#4 x 0x9E#8
  | .opEXA1 x => packXK 0xE#4 x 0xA1#8
  | .opFX07 x => packXK 0xF#4 x 0x07#8
  | .opFX15 x => packXK 0xF#4 x 0x15#8
  | .opFX18 x => packXK 0xF#4 x 0x18#8
  | .opFX1E x => packXK 0xF#4 x 0x1E#8
  | .opFX29 x => packXK 0xF#4 x 0x29#8
  | .opFX33 x => packXK 0xF#4 x 0x33#8
  | .opFX55 x => packXK 0xF#4 x 0x55#8
  | .opFX65 x => packXK 0xF#4 x 0x65#8

/-- An instruction as the bytes the hardware stores, the first at the lower address (R69, R90). -/
def encodeBytes (i : Instr) : List Byte := [highByte (encode i), lowByte (encode i)]

/-- The word the host's table numbering gives: bits at and above `nbits` are 0; a word has 16 bits (R90). -/
def tableWord (nbits w : Nat) : Word := BitVec.ofNat 16 (w % 2 ^ nbits)

/-- The instruction the decoder reads from an instruction whose bits are `w`, laid out as the hardware stores it. -/
def decodeTableWord (nbits w : Nat) : Option Instr :=
  match decodeBytes [highByte (tableWord nbits w), lowByte (tableWord nbits w)] with
  | .ok (i, _) => some i
  | .error _ => none

/-- One hexadecimal digit (R100). -/
def hexDigit (d : Nibble) : String :=
  (["0", "1", "2", "3", "4", "5", "6", "7", "8", "9", "A", "B", "C", "D", "E", "F"] : List String).getD d.toNat ""

/-- A register operand of the assembler forms: `V` and one hex digit (R100). -/
def asmReg (x : Reg) : String := "V" ++ hexDigit x

/-- An 8-bit hex byte operand (R100). -/
def asmByte (kk : Byte) : String := hexDigit (kk.extractLsb' 4 4) ++ hexDigit (kk.extractLsb' 0 4)

/-- A 12-bit hex address operand (R100). -/
def asmAddr (a : Addr12) : String :=
  hexDigit (a.extractLsb' 8 4) ++ hexDigit (a.extractLsb' 4 4) ++ hexDigit (a.extractLsb' 0 4)

/-- Two operands, separated as in R100. -/
def asmTwo (a b : String) : String := a ++ ", " ++ b

/-- The assembler form of an instruction (R100, notation only: no rule depends on it). -/
def Instr.asm : Instr → String
  | .op00E0 => "CLS"
  | .op00EE => "RET"
  | .op1NNN nnn => "JP " ++ asmAddr nnn
  | .op2NNN nnn => "CALL " ++ asmAddr nnn
  | .op3XKK x kk => "SE " ++ asmTwo (asmReg x) (asmByte kk)
  | .op4XKK x kk => "SNE " ++ asmTwo (asmReg x) (asmByte kk)
  | .op5XY0 x y => "SE " ++ asmTwo (asmReg x) (asmReg y)
  | .op6XKK x kk => "LD " ++ asmTwo (asmReg x) (asmByte kk)
  | .op7XKK x kk => "ADD " ++ asmTwo (asmReg x) (asmByte kk)
  | .op8XY0 x y => "LD " ++ asmTwo (asmReg x) (asmReg y)
  | .op8XY1 x y => "OR " ++ asmTwo (asmReg x) (asmReg y)
  | .op8XY2 x y => "AND " ++ asmTwo (asmReg x) (asmReg y)
  | .op8XY3 x y => "XOR " ++ asmTwo (asmReg x) (asmReg y)
  | .op8XY4 x y => "ADD " ++ asmTwo (asmReg x) (asmReg y)
  | .op8XY5 x y => "SUB " ++ asmTwo (asmReg x) (asmReg y)
  | .op8XY6 x y => "SHR " ++ asmTwo (asmReg x) (asmReg y)
  | .op8XY7 x y => "SUBN " ++ asmTwo (asmReg x) (asmReg y)
  | .op8XYE x y => "SHL " ++ asmTwo (asmReg x) (asmReg y)
  | .op9XY0 x y => "SNE " ++ asmTwo (asmReg x) (asmReg y)
  | .opANNN nnn => "LD " ++ asmTwo "I" (asmAddr nnn)
  | .opBNNN nnn => "JP " ++ asmTwo "V0" (asmAddr nnn)
  | .opCXKK x kk => "RND " ++ asmTwo (asmReg x) (asmByte kk)
  | .opDXYN x y n => "DRW " ++ asmTwo (asmReg x) (asmTwo (asmReg y) (hexDigit n))
  | .opEX9E x => "SKP " ++ asmReg x
  | .opEXA1 x => "SKNP " ++ asmReg x
  | .opFX07 x => "LD " ++ asmTwo (asmReg x) "DT"
  | .opFX15 x => "LD " ++ asmTwo "DT" (asmReg x)
  | .opFX18 x => "LD " ++ asmTwo "ST" (asmReg x)
  | .opFX1E x => "ADD " ++ asmTwo "I" (asmReg x)
  | .opFX29 x => "LD " ++ asmTwo "F" (asmReg x)
  | .opFX33 x => "LD " ++ asmTwo "B" (asmReg x)
  | .opFX55 x => "LD " ++ asmTwo "[I]" (asmReg x)
  | .opFX65 x => "LD " ++ asmTwo (asmReg x) "[I]"

/-- How a program listing writes a word: its assembler form, or `.word 0xHHHH` for a word that is no instruction (R100). -/
def asmWord (op : Word) : String :=
  match decode op with
  | .ok i => i.asm
  | .error _ => ".word 0x" ++ asmByte (highByte op) ++ asmByte (lowByte op)

end Sys2Proof
end

