-- ==== Sys2Proof/Machine/State.lean ====
section
/-! DEFINITION. The state of the machine (spec R20 and the rules it names), as plain data, and the state after reset. -/

namespace Sys2Proof.Machine

/-- The one memory space (R60), as (address, byte) pairs in the canonical form of `Memory.wf` (Ops.lean): a cell that
is not listed reads as its construction value (R40, `unlistedByte`). -/
abbrev Memory := List Host.Cell

/-- The sixteen general registers V0 to VF (R21). -/
abbrev RegFile := Vector Byte 16

/-- The framebuffer: 32 rows of 64 one-bit pixels, row-major (R20, R34): pixel (x, y) is bit x of row y, and the pixel
of linear index x + y*64 is read by `pixel` (Ops.lean). -/
abbrev Framebuffer := Vector (BitVec 64) 32

/-- What an access to memory is for: the `access` of R66, R67 and R284. -/
inductive Access where
  | fetch
  | read
  | write
  deriving DecidableEq, Repr

/-- The causes of a fault with the info each carries (R284). -/
inductive FaultCause where
  | memOutOfRange (addr : Nat) (access : Access)
  | glyphWrite (addr : Nat)
  | stackOverflow (sp : Nat)
  | stackUnderflow (sp : Nat)
  | keyIndexOutOfRange (value : Byte)
  | drawOutOfRange (index : Nat)
  deriving DecidableEq, Repr

/-- The fault record (R281): the cause (its code and name are `FaultCause.code` and `FaultCause.name`, its info is what
the cause carries), the pc at step entry, and the fetched word, or none when the fetch itself faulted. -/
structure FaultRecord where
  cause : FaultCause
  pc : Word
  op : Option Word
  deriving DecidableEq, Repr

/-- The run status (R37): Running, or the terminal error state with its record. -/
inductive Status where
  | running
  | faulted (r : FaultRecord)
  deriving DecidableEq, Repr

/-- The non-fatal diagnostic NotImplemented(pc, op) of an unrecognized word (R97). -/
structure Diagnostic where
  pc : Word
  op : Word
  deriving DecidableEq, Repr

/-- The complete state. The fields mem to status are the record of R20 under its own names; drew, diag, draws and cfg
are the MODEL'S OWN (log 2, log 3, log 6). -/
structure State where
  /-- Memory (R60). -/
  mem : Memory
  /-- General registers (R21); V[15] is VF (R22). -/
  V : RegFile
  /-- Index register (R30). -/
  I : Word
  /-- Program counter: while an instruction executes, the address of its high byte (R24). -/
  pc : Word
  /-- Call stack slots (R31). -/
  stack : Vector Word 16
  /-- Stack pointer: the number of occupied slots, 0 to 16 (R31). -/
  SP : Fin 17
  /-- Delay timer (R33). -/
  DT : Byte
  /-- Sound timer (R33). -/
  ST : Byte
  /-- Framebuffer (R34). -/
  FB : Framebuffer
  /-- Dirty flag (R35). -/
  dirty : Bool
  /-- Key state, owned by the host (R36). -/
  key : Vector Bool 16
  /-- Run status (R37). -/
  status : Status
  /-- Output of the last step: it marked the framebuffer dirty (R103, R105; log 2). -/
  drew : Bool
  /-- Output of the last step: the diagnostic of an unrecognized word (R97, R105; log 2). -/
  diag : Option Diagnostic
  /-- How many random bytes CXKK has drawn: the argument of the RAND oracle (R7, R162; log 6). -/
  draws : Nat
  /-- The parameters GLYPHS and DRAW_OOB, which no step changes (R7; log 3). -/
  cfg : Config
  deriving DecidableEq, Repr

/-- The reasons a step could end in the host interface's `fault` outcome. There is NONE, so nothing raises one: a fault
of this hardware is a transition into the state Faulted (R37, R103, R282), which the model takes as a next state
(log 1). That is safe: no behaviour of the spec is left out by it. -/
inductive Fault where
  deriving DecidableEq, Repr

/-- The reasons a step could be refused. -/
inductive Refusal where
  /-- Raised only by an arm of `exec` whose instruction has no meaning yet; safe: the model stops where the hardware
  goes on. No arm raises it now. -/
  | notModelled (mnemonic : String)
  deriving DecidableEq, Repr

/-- What an instruction's meaning and a step answer. -/
abbrev Result := Host.Outcome State Fault Refusal

/-- The machine right after construction from the empty image (R40, R320, R321), with the default parameters (R7). The
source states pc = 0x200; every other value is R40's (the spec's D3, D4, D5, D8: log 7). -/
def State.reset : State where
  mem := []
  V := Vector.replicate 16 0x00#8
  I := 0x0000#16
  pc := 0x200#16
  stack := Vector.replicate 16 0x0000#16
  SP := 0
  DT := 0x00#8
  ST := 0x00#8
  FB := Vector.replicate 32 0#64
  dirty := false
  key := Vector.replicate 16 false
  status := .running
  drew := false
  diag := none
  draws := 0
  cfg := Config.default

end Sys2Proof.Machine
end

