-- ==== Sys2Proof/Machine/Ops.lean ====
section
/-! DEFINITION. The named operations over memory, registers, pc, stack, keys and timers, taking a fault (spec R280 to
R286), and what a step does around an instruction (R103). There is no return from a fault: R290. -/

namespace Sys2Proof.Machine

/-! ## Memory as data -/

/-- What a cell that is not listed reads as: its construction value (R40): the glyph table, else 0x00. -/
def unlistedByte (g : Glyphs) (a : Nat) : Byte := if h : a < 80 then g[a] else 0x00#8

/-- The byte listed at an address, if one is. -/
def Memory.lookup : Memory → Nat → Option Byte
  | [], _ => none
  | c :: m, a => if c.1 = a then some c.2 else Memory.lookup m a

/-- The byte of a cell (R60). -/
def Memory.byteAt (g : Glyphs) (m : Memory) (a : Nat) : Byte := (m.lookup a).getD (unlistedByte g a)

/-- The list without any entry at the address. -/
def Memory.erase : Memory → Nat → Memory
  | [], _ => []
  | c :: m, a => if c.1 = a then Memory.erase m a else c :: Memory.erase m a

/-- The list with an entry put before the first higher address. -/
def Memory.insert : Memory → Nat → Byte → Memory
  | [], a, v => [(a, v)]
  | c :: m, a, v => if a < c.1 then (a, v) :: c :: m else c :: Memory.insert m a v

/-- One cell changed and no other (R74), keeping the canonical form: the construction value is not listed. -/
def Memory.store (g : Glyphs) (m : Memory) (a : Nat) (v : Byte) : Memory :=
  if v = unlistedByte g a then m.erase a else (m.erase a).insert a v

/-- The addresses rise strictly, starting at `low` or above. -/
def Memory.risesFrom : Nat → Memory → Bool
  | _, [] => true
  | low, c :: m => decide (low ≤ c.1) && Memory.risesFrom (c.1 + 1) m

/-- The canonical form: addresses strictly rising, each below 4096 (R60), and no entry equal to what the address reads
as unlisted. -/
def Memory.wf (g : Glyphs) (m : Memory) : Bool :=
  m.risesFrom 0 && m.all fun c => decide (c.1 < memSize) && decide (c.2 ≠ unlistedByte g c.1)

/-- The byte the state's memory holds at an address. -/
def State.byteAt (s : State) (a : Nat) : Byte := s.mem.byteAt s.cfg.glyphs a

/-! ## Memory accesses -/

/-- MemRead(addr, 1) (R66): an address of 4096 or more faults (R64). -/
def memRead (s : State) (access : Access) (addr : Nat) : Except FaultCause Byte :=
  if memSize ≤ addr then .error (.memOutOfRange addr access) else .ok (s.byteAt addr)

/-- MemRead of `n` bytes from `base` upward, ascending; the first failing address is the one reported (R286). -/
def memReadAll (s : State) (access : Access) (base : Nat) : Nat → Except FaultCause (List Byte)
  | 0 => .ok []
  | n + 1 =>
    match memRead s access base with
    | .error c => .error c
    | .ok b =>
      match memReadAll s access (base + 1) n with
      | .error c => .error c
      | .ok bs => .ok (b :: bs)

/-- MemWrite(addr, 1, v) (R67): the range test before the glyph test (R63, R64, R286). -/
def memWrite (g : Glyphs) (m : Memory) (addr : Nat) (v : Byte) : Except FaultCause Memory :=
  if memSize ≤ addr then .error (.memOutOfRange addr .write)
  else if addr < glyphBytes then .error (.glyphWrite addr)
  else .ok (m.store g addr v)

/-- MemWrite of several bytes from `base` upward, ascending (R67, R213, R214). -/
def memWriteAll (g : Glyphs) : Memory → Nat → List Byte → Except FaultCause Memory
  | m, _, [] => .ok m
  | m, base, v :: vs =>
    match memWrite g m base v with
    | .error c => .error c
    | .ok m' => memWriteAll g m' (base + 1) vs

/-- Several bytes stored from the instruction's state: only memory changes. -/
def storeBytes (s : State) (base : Nat) (vs : List Byte) : Except FaultCause State :=
  match memWriteAll s.cfg.glyphs s.mem base vs with
  | .error c => .error c
  | .ok m => .ok { s with mem := m }

/-- The fetch (R104): the byte at pc, then the byte at pc + 1, both addresses exact (R65), high byte first (R69). It
does not change pc (R24). -/
def fetchWord (s : State) : Except FaultCause Word :=
  match memRead s .fetch s.pc.toNat with
  | .error c => .error c
  | .ok hi =>
    match memRead s .fetch (s.pc.toNat + 1) with
    | .error c => .error c
    | .ok lo => .ok (joinBytes hi lo)

/-! ## Registers -/

/-- V[x] (R21). -/
def State.getV (s : State) (x : Reg) : Byte := s.V[x.toNat]'(x.isLt)

/-- V[x] <- b (R21). -/
def State.setV (s : State) (x : Reg) (b : Byte) : State := { s with V := s.V.set x.toNat b x.isLt }

/-- I <- w (R30). -/
def State.setI (s : State) (w : Word) : State := { s with I := w }

/-- pc <- target (R24). -/
def State.setPc (s : State) (target : Word) : State := { s with pc := target }

/-- DT <- b (R33). -/
def State.setDT (s : State) (b : Byte) : State := { s with DT := b }

/-- ST <- b (R33). -/
def State.setST (s : State) (b : Byte) : State := { s with ST := b }

/-- pc <- pc + 2, mod 2^16 (R25, R27). -/
def State.advance (s : State) : State := s.setPc (s.pc + 2#16)

/-- pc <- pc + 4 when the condition holds, else pc + 2, mod 2^16 (R140). -/
def State.skipIf (s : State) (cond : Bool) : State := s.setPc (if cond then s.pc + 4#16 else s.pc + 2#16)

/-- V[x], V[x+1], ... <- the bytes, ascending from register number `x` (R215). -/
def State.setVs : State → Nat → List Byte → State
  | s, _, [] => s
  | s, x, b :: bs => State.setVs (s.setV (BitVec.ofNat 4 x) b) (x + 1) bs

/-! ## The display -/

/-- FB[j] (R34): the pixel of linear index j = x + y*64. An index of 2048 or more is no pixel (R244): nothing reads one. -/
def pixel (fb : Framebuffer) (j : Nat) : Bool := if h : j < 2048 then (fb[j / 64]'(by omega)).getLsbD (j % 64) else false

/-- FB[j] <- FB[j] XOR 1 (R241). -/
def flipPixel (fb : Framebuffer) (j : Nat) : Framebuffer :=
  if h : j < 2048 then fb.set (j / 64) ((fb[j / 64]'(by omega)) ^^^ (1#64 <<< (j % 64))) (by omega) else fb

/-- Every pixel 0 (R240). -/
def clearFrame : Framebuffer := Vector.replicate 32 0#64

/-- The framebuffer with new contents, marked dirty, and the step's `drew` (R35, R103, R240, R241). -/
def State.present (s : State) (fb : Framebuffer) : State := { s with FB := fb, dirty := true, drew := true }

/-! ## The call stack -/

/-- The push of 2NNN (R123): the current pc into the slot at SP, then SP up by one; at SP = 16 it overflows (R32). -/
def State.push (s : State) : Except FaultCause State :=
  if h : s.SP.val < 16 then .ok { s with stack := s.stack.set s.SP.val s.pc h, SP := ⟨s.SP.val + 1, by omega⟩ }
  else .error (.stackOverflow s.SP.val)

/-- The pop of 00EE (R121): SP down by one, then the slot at SP; the slot keeps its value; at SP = 0 it underflows
(R32). -/
def State.pop (s : State) : Except FaultCause (Word × State) :=
  if h : s.SP.val = 0 then .error (.stackUnderflow s.SP.val)
  else .ok (s.stack[s.SP.val - 1]'(by omega), { s with SP := ⟨s.SP.val - 1, by omega⟩ })

/-! ## Keys -/

/-- key[k] (R36); an index above 15 faults (R145, R146, D17). -/
def State.keyHeld (s : State) (k : Byte) : Except FaultCause Bool :=
  if h : k.toNat < 16 then .ok s.key[k.toNat] else .error (.keyIndexOutOfRange k)

/-! ## The random source -/

/-- RAND() (R162): the oracle's next byte, a free value, and the state that has drawn it (log 6). -/
def State.rand (s : State) : Byte × State := (Config.randomByte s.draws, { s with draws := s.draws + 1 })

/-! ## Faults -/

/-- The code of a fault (R284). -/
def FaultCause.code : FaultCause → Nat
  | .memOutOfRange _ _ => 1
  | .glyphWrite _ => 2
  | .stackOverflow _ => 3
  | .stackUnderflow _ => 4
  | .keyIndexOutOfRange _ => 5
  | .drawOutOfRange _ => 6

/-- The name of a fault (R284). -/
def FaultCause.name : FaultCause → String
  | .memOutOfRange _ _ => "MemOutOfRange"
  | .glyphWrite _ => "GlyphWrite"
  | .stackOverflow _ => "StackOverflow"
  | .stackUnderflow _ => "StackUnderflow"
  | .keyIndexOutOfRange _ => "KeyIndexOutOfRange"
  | .drawOutOfRange _ => "DrawOutOfRange"

/-- TAKING A FAULT (R281, R282, R289), the one operation every fault goes through, applied to the state at step entry,
so that nothing of the step is kept: status becomes Faulted with the record, whose pc is the pc at step entry, and
nothing else changes. -/
def takeFault (cause : FaultCause) (op : Option Word) (s : State) : State :=
  { s with status := .faulted { cause := cause, pc := s.pc, op := op } }

/-- The end of a meaning that may raise: the state it computed, or the fault taken from the state `s` at step entry
(R282). The record's op is the instruction's own word (R281; log 8). -/
def orFault (i : Instr) (s : State) : Except FaultCause State → Result
  | .ok s' => .next s'
  | .error c => .next (takeFault c (some (encode i)) s)

/-! ## What a step does around an instruction -/

/-- tick() (R294): each nonzero timer down by one. -/
def tick (s : State) : State :=
  { s with DT := if s.DT = 0x00#8 then s.DT else s.DT - 1#8, ST := if s.ST = 0x00#8 then s.ST else s.ST - 1#8 }

/-- The start of a step (R103): drew <- false, diag <- none. -/
def beginStep (s : State) : State := { s with drew := false, diag := none }

/-- The end of a step (R103): a step that faulted does not tick (R282), every other one does (R294). -/
def completeStep : Result → Result
  | .next s =>
    match s.status with
    | .running => .next (tick s)
    | .faulted _ => .next s
  | r => r

/-- What `step()` returns to its caller (R105). -/
inductive StepOutcome where
  | completed (drew : Bool) (diag : Option Diagnostic)
  | failed (r : FaultRecord)
  deriving DecidableEq, Repr

/-- What the step that reached this state returned (R103, R105, R283): Failed(r) exactly when the machine is
Faulted(r). -/
def State.outcome (s : State) : StepOutcome :=
  match s.status with
  | .running => .completed s.drew s.diag
  | .faulted r => .failed r

/-- A step of a faulted machine (R283): nothing changes; its outcome is Failed(r) again. -/
def stepFaulted (s : State) : Result := .next s

/-- A step whose fetch faults (R104, R281): no instruction, no tick, and no word in the record. -/
def stepFetchFault (c : FaultCause) (s : State) : Result := .next (takeFault c none (beginStep s))

end Sys2Proof.Machine
end

