-- ==== Sys2Proof/Machine/Operands.lean ====
section
/-! DEFINITION. The operand forms (spec R92, R216): register selectors, immediates, addresses, I plus a small constant. -/

namespace Sys2Proof.Machine

/-- NNN as a 16-bit value: zext_16(NNN) (R92). -/
def addrOperand (nnn : Addr12) : Word := nnn.setWidth 16

/-- A register's byte as a 16-bit value (R9, R124, R211, R212). -/
def byteOperand (b : Byte) : Word := b.setWidth 16

/-- The one data addressing mode: I + k, an exact integer (R65, R216). -/
def effectiveAddress (s : State) (k : Nat) : Nat := s.I.toNat + k

/-- How many registers V0..V[X] are (R214, R215). -/
def regCount (x : Reg) : Nat := x.toNat + 1

/-- The bytes of `n` registers from register number `x` upward. -/
def regBytesFrom (s : State) : Nat → Nat → List Byte
  | _, 0 => []
  | x, n + 1 => s.getV (BitVec.ofNat 4 x) :: regBytesFrom s (x + 1) n

/-- The bytes of V0..V[X], ascending (R214). -/
def regBytes (s : State) (x : Reg) : List Byte := regBytesFrom s 0 (regCount x)

/-- The hundreds, tens and units digits of a byte (R213). -/
def decimalDigits (v : Byte) : List Byte :=
  [BitVec.ofNat 8 (v.toNat / 100), BitVec.ofNat 8 (v.toNat / 10 % 10), BitVec.ofNat 8 (v.toNat % 10)]

end Sys2Proof.Machine
end

