-- ==== Sys2Proof/Machine/Flags.lean ====
section
/-! DEFINITION. Every computation of the flag VF (spec R28, R185 to R189, R241). -/

namespace Sys2Proof.Machine

/-- A flag as the byte VF holds: 1 or 0. -/
def flagByte (b : Bool) : Byte := if b then 0x01#8 else 0x00#8

/-- 8XY4: the carry out of bit 7, from the exact sum (R185). -/
def carryFlag (a b : Byte) : Byte := flagByte (decide (256 ≤ a.toNat + b.toNat))

/-- 8XY5 and 8XY7: the minuend is strictly greater than the subtrahend (R186, R188). -/
def greaterFlag (a b : Byte) : Byte := flagByte (decide (b.toNat < a.toNat))

/-- 8XY6: bit 0 (R187). -/
def lowBitFlag (a : Byte) : Byte := a &&& 0x01#8

/-- 8XYE: bit 7 (R189). -/
def highBitFlag (a : Byte) : Byte := (a >>> 7) &&& 0x01#8

/-- VF <- f (R22). -/
def State.setFlag (s : State) (f : Byte) : State := s.setV flagReg f

/-- DXYN: VF <- 1 on a collision, else VF unchanged (R241, D13). -/
def State.setCollision (s : State) (hit : Bool) : State := if hit then s.setFlag 0x01#8 else s

end Sys2Proof.Machine
end

