-- ==== Sys2Proof/Machine/Alu.lean ====
section
/-! DEFINITION. Register-register ALU: 8XY0 to 8XY7, 8XYE (spec R180 to R191). -/

namespace Sys2Proof.Machine

/-- The classes that write no flag (R180): V[X] <- f V[X] V[Y]. -/
def aluPlain (f : Byte → Byte → Byte) (x y : Reg) (s : State) : Result :=
  .next (s.setV x (f (s.getV x) (s.getV y))).advance

/-- The second statement of the flag-writing classes: V[X] <- f V[X] V[Y], from the registers as they are then. -/
def aluResult (f : Byte → Byte → Byte) (x y : Reg) (s : State) : State := s.setV x (f (s.getV x) (s.getV y))

/-- The classes that write VF first and V[X] second, each statement reading the registers as they are when it runs
(R180, D16, log 9). -/
def aluFlagged (flag f : Byte → Byte → Byte) (x y : Reg) (s : State) : Result :=
  .next (aluResult f x y (s.setFlag (flag (s.getV x) (s.getV y)))).advance

/-- 8XY0 (R181). -/
def exec8XY0 (x y : Reg) (s : State) : Result := aluPlain (fun _ b => b) x y s

/-- 8XY1 (R182). -/
def exec8XY1 (x y : Reg) (s : State) : Result := aluPlain (fun a b => a ||| b) x y s

/-- 8XY2 (R183). -/
def exec8XY2 (x y : Reg) (s : State) : Result := aluPlain (fun a b => a &&& b) x y s

/-- 8XY3 (R184). -/
def exec8XY3 (x y : Reg) (s : State) : Result := aluPlain (fun a b => a ^^^ b) x y s

/-- 8XY4 (R185). -/
def exec8XY4 (x y : Reg) (s : State) : Result := aluFlagged carryFlag (fun a b => a + b) x y s

/-- 8XY5 (R186). -/
def exec8XY5 (x y : Reg) (s : State) : Result := aluFlagged greaterFlag (fun a b => a - b) x y s

/-- 8XY6 (R187): the flag from V[X], the shifted value from V[Y]. -/
def exec8XY6 (x y : Reg) (s : State) : Result := aluFlagged (fun a _ => lowBitFlag a) (fun _ b => b >>> 1) x y s

/-- 8XY7 (R188). -/
def exec8XY7 (x y : Reg) (s : State) : Result := aluFlagged (fun a b => greaterFlag b a) (fun a b => b - a) x y s

/-- 8XYE (R189): the flag from V[X], the shifted value from V[Y]. -/
def exec8XYE (x y : Reg) (s : State) : Result := aluFlagged (fun a _ => highBitFlag a) (fun _ b => b <<< 1) x y s

end Sys2Proof.Machine
end

