-- ==== Sys2Proof/Machine/ControlTransfer.lean ====
section
/-! DEFINITION. Control transfer: 00EE, 1NNN, 2NNN, BNNN (spec R120 to R126). -/

namespace Sys2Proof.Machine

/-- 00EE (R121): the popped value plus 2 is the next pc. -/
def exec00EE (s : State) : Result :=
  orFault .op00EE s <|
    match s.pop with
    | .error c => .error c
    | .ok (ret, s') => .ok (s'.setPc (ret + 2#16))

/-- 1NNN (R122). -/
def exec1NNN (nnn : Addr12) (s : State) : Result := .next (s.setPc (addrOperand nnn))

/-- 2NNN (R123): pushes its own address, then jumps. -/
def exec2NNN (nnn : Addr12) (s : State) : Result :=
  orFault (.op2NNN nnn) s <|
    match s.push with
    | .error c => .error c
    | .ok s' => .ok (s'.setPc (addrOperand nnn))

/-- BNNN (R124): always register V0, and no reduction to 12 bits. -/
def execBNNN (nnn : Addr12) (s : State) : Result :=
  .next (s.setPc (byteOperand (s.getV 0x0#4) + addrOperand nnn))

end Sys2Proof.Machine
end

