-- ==== Sys2Proof/Machine/Display.lean ====
section
/-! DEFINITION. Display: 00E0, DXYN (spec R240 to R245). -/

namespace Sys2Proof.Machine

/-- 00E0 (R240): every pixel 0; dirty (D19, log 14). -/
def exec00E0 (s : State) : Result := .next (s.present clearFrame).advance

/-- The framebuffer index a sprite bit targets, an exact integer with no coordinate wrap (R242). -/
def pixelIndex (vx vy : Byte) (row col : Nat) : Nat := (vx.toNat + col) + (vy.toNat + row) * fbWidth

/-- The bit of a sprite row at a column: bit 7 is column 0 (R243, D14, log 10). -/
def spriteBit (b : Byte) (col : Nat) : Bool := b.getLsbD (7 - col)

/-- The targets of the set bits of one sprite row from column `col` on, in column order. -/
def rowTargets (vx vy : Byte) (row : Nat) (b : Byte) : Nat → Nat → List Nat
  | _, 0 => []
  | col, n + 1 =>
    if spriteBit b col then pixelIndex vx vy row col :: rowTargets vx vy row b (col + 1) n
    else rowTargets vx vy row b (col + 1) n

/-- The targets of the set bits of a sprite, row by row and column by column (R241, R286). -/
def spriteTargets (vx vy : Byte) : Nat → List Byte → List Nat
  | _, [] => []
  | row, b :: bs => rowTargets vx vy row b 0 8 ++ spriteTargets vx vy (row + 1) bs

/-- A framebuffer being drawn on, and whether a collision has occurred. -/
structure Canvas where
  fb : Framebuffer
  hit : Bool
  deriving DecidableEq, Repr

/-- One set sprite bit (R241): an index of 2048 or more is skipped or faults, as DRAW_OOB says (R244); else a pixel that
is 1 is a collision, and the pixel is XORed with 1. -/
def plot (oob : DrawOob) (c : Canvas) (idx : Nat) : Except FaultCause Canvas :=
  if fbSize ≤ idx then
    match oob with
    | .clip => .ok c
    | .fault => .error (.drawOutOfRange idx)
  else .ok { fb := flipPixel c.fb idx, hit := c.hit || pixel c.fb idx }

/-- The set sprite bits in order; the first out-of-range one is the one reported (R286). -/
def plotAll (oob : DrawOob) : Canvas → List Nat → Except FaultCause Canvas
  | c, [] => .ok c
  | c, idx :: rest =>
    match plot oob c idx with
    | .error e => .error e
    | .ok c' => plotAll oob c' rest

/-- The draw of R241 up to its register writes: V[X], V[Y] and I read once, then all sprite bytes, then the pixels. -/
def drawSprite (x y : Reg) (n : Nibble) (s : State) : Except FaultCause Canvas :=
  match memReadAll s .read (effectiveAddress s 0) n.toNat with
  | .error c => .error c
  | .ok sprite => plotAll s.cfg.drawOob { fb := s.FB, hit := false } (spriteTargets (s.getV x) (s.getV y) 0 sprite)

/-- DXYN (R241): VF <- 1 on a collision and unchanged without one (D13, log 10); dirty in every case. -/
def execDXYN (x y : Reg) (n : Nibble) (s : State) : Result :=
  orFault (.opDXYN x y n) s <|
    match drawSprite x y n s with
    | .error c => .error c
    | .ok c => .ok ((s.setCollision c.hit).present c.fb).advance

end Sys2Proof.Machine
end

