-- ==== Sys2Proof/Machine/Fallback.lean ====
section
/-! DEFINITION. The unrecognized-instruction fallback (spec R96, R97, R98, R287). -/

namespace Sys2Proof.Machine

/-- A word that is no class (R97): the diagnostic NotImplemented(pc, op) (D25, log 2), and pc + 2; nothing else. -/
def execUnrecognized (op : Word) (s : State) : Result :=
  .next { s with diag := some { pc := s.pc, op := op } }.advance

end Sys2Proof.Machine
end

