-- ==== Sys2Proof/Machine/IndexMemory.lean ====
section
/-! DEFINITION. Index register and memory transfers: ANNN, FX1E, FX29, FX33, FX55, FX65 (spec R210 to R216). -/

namespace Sys2Proof.Machine

/-- ANNN (R210). -/
def execANNN (nnn : Addr12) (s : State) : Result := .next (s.setI (addrOperand nnn)).advance

/-- FX1E (R211): modulo 65536, no flag. -/
def execFX1E (x : Reg) (s : State) : Result := .next (s.setI (s.I + byteOperand (s.getV x))).advance

/-- FX29 (R212): V[X] * 5, not masked to a digit (log 13). -/
def execFX29 (x : Reg) (s : State) : Result := .next (s.setI (byteOperand (s.getV x) * 5#16)).advance

/-- The stores of FX33 and FX55: the bytes to I, I + 1, ..., then the next instruction (R213, R214). I is unchanged. -/
def storeFromI (i : Instr) (vs : List Byte) (s : State) : Result :=
  orFault i s <|
    match storeBytes s (effectiveAddress s 0) vs with
    | .error c => .error c
    | .ok s' => .ok s'.advance

/-- FX33 (R213). -/
def execFX33 (x : Reg) (s : State) : Result := storeFromI (.opFX33 x) (decimalDigits (s.getV x)) s

/-- FX55 (R214): V0 to V[X]; I is left unchanged (D18, log 13). -/
def execFX55 (x : Reg) (s : State) : Result := storeFromI (.opFX55 x) (regBytes s x) s

/-- FX65 (R215): V0 to V[X]; I is left unchanged (D18, log 13). -/
def execFX65 (x : Reg) (s : State) : Result :=
  orFault (.opFX65 x) s <|
    match memReadAll s .read (effectiveAddress s 0) (regCount x) with
    | .error c => .error c
    | .ok bs => .ok (s.setVs 0 bs).advance

end Sys2Proof.Machine
end

