-- ==== Sys2Proof/Machine/RegisterLoad.lean ====
section
/-! DEFINITION. Register immediates and random: 6XKK, 7XKK, CXKK (spec R160 to R162). -/

namespace Sys2Proof.Machine

/-- 6XKK (R160). -/
def exec6XKK (x : Reg) (kk : Byte) (s : State) : Result := .next (s.setV x kk).advance

/-- 7XKK (R161): modulo 256, no flag. -/
def exec7XKK (x : Reg) (kk : Byte) (s : State) : Result := .next (s.setV x (s.getV x + kk)).advance

/-- CXKK (R162): the drawn byte, which is a free value (log 6), masked by KK. -/
def execCXKK (x : Reg) (kk : Byte) (s : State) : Result := .next (s.rand.2.setV x (s.rand.1 &&& kk)).advance

end Sys2Proof.Machine
end

