-- ==== Sys2Proof/Machine/Skips.lean ====
section
/-! DEFINITION. Conditional skips: 3XKK, 4XKK, 5XY0, 9XY0, EX9E, EXA1 (spec R140 to R146). -/

namespace Sys2Proof.Machine

/-- 3XKK (R141). -/
def exec3XKK (x : Reg) (kk : Byte) (s : State) : Result := .next (s.skipIf (decide (s.getV x = kk)))

/-- 4XKK (R142). -/
def exec4XKK (x : Reg) (kk : Byte) (s : State) : Result := .next (s.skipIf (decide (s.getV x ≠ kk)))

/-- 5XY0 (R143). -/
def exec5XY0 (x y : Reg) (s : State) : Result := .next (s.skipIf (decide (s.getV x = s.getV y)))

/-- 9XY0 (R144). -/
def exec9XY0 (x y : Reg) (s : State) : Result := .next (s.skipIf (decide (s.getV x ≠ s.getV y)))

/-- EX9E (R145). -/
def execEX9E (x : Reg) (s : State) : Result :=
  orFault (.opEX9E x) s <|
    match s.keyHeld (s.getV x) with
    | .error c => .error c
    | .ok held => .ok (s.skipIf held)

/-- EXA1 (R146). -/
def execEXA1 (x : Reg) (s : State) : Result :=
  orFault (.opEXA1 x) s <|
    match s.keyHeld (s.getV x) with
    | .error c => .error c
    | .ok held => .ok (s.skipIf (!held))

end Sys2Proof.Machine
end

