-- ==== Sys2Proof/Machine/Timers.lean ====
section
/-! DEFINITION. Timer access: FX07, FX15, FX18 (spec R260 to R263). The tick of the same step comes after (R294). -/

namespace Sys2Proof.Machine

/-- FX07 (R260): DT as it is before this step's tick. -/
def execFX07 (x : Reg) (s : State) : Result := .next (s.setV x s.DT).advance

/-- FX15 (R261). -/
def execFX15 (x : Reg) (s : State) : Result := .next (s.setDT (s.getV x)).advance

/-- FX18 (R262). -/
def execFX18 (x : Reg) (s : State) : Result := .next (s.setST (s.getV x)).advance

end Sys2Proof.Machine
end

