-- ==== Sys2Proof/Machine/Step.lean ====
section
/-! DEFINITION. One `step()` (spec R102, R103): fetch, decode, execute, tick. -/

namespace Sys2Proof.Machine

/-- `step()` (R103). What it returns to its caller is `State.outcome` of the state it reaches (R105). -/
def step (s : State) : Host.Outcome State Fault Refusal :=
  match s.status with
  | .faulted _ => stepFaulted s
  | .running =>
    match fetchWord (beginStep s) with
    | .error c => stepFetchFault c s
    | .ok op =>
      match decode op with
      | .ok i => completeStep (exec i (beginStep s))
      | .error _ => completeStep (execUnrecognized op (beginStep s))

/-- The state with an instruction's word, its bits numbered as spec/opcode_table.json numbers them, stored at pc and
pc + 1, high byte first, and running, so that the next step fetches it (log 19). Where nothing can be fetched
(pc of 0xFFF or more, R72) memory is left as it is. -/
def State.withFetchWord (s : State) (nbits w : Nat) : State :=
  if s.pc.toNat + 1 < memSize then
    { s with
      mem := (s.mem.store s.cfg.glyphs s.pc.toNat (highByte (tableWord nbits w))).store s.cfg.glyphs (s.pc.toNat + 1)
        (lowByte (tableWord nbits w))
      status := .running }
  else s

end Sys2Proof.Machine
end

