-- ==== Sys2Proof/Machine/HostCalls.lean ====
section
/-! DEFINITION. The host interface (spec R296 to R300, R304, R320, R321): construction and the calls the host makes
between steps. -/

namespace Sys2Proof.Machine

/-- Why construction fails (R304). -/
inductive LoadError where
  | imageTooLarge (size : Nat)
  deriving DecidableEq, Repr

/-- The image's bytes put into memory from an address upward (R320). -/
def loadBytes (g : Glyphs) : Memory → Nat → List Byte → Memory
  | m, _, [] => m
  | m, a, b :: bs => loadBytes g (m.store g a b) (a + 1) bs

/-- `construct(image)` with the parameters of R7 (R320): the state of R40 with the image at 0x200, or a load error. Reset
is construction (R321). -/
def construct (cfg : Config) (image : List Byte) : Except LoadError State :=
  if imageWellFormed image then
    .ok { State.reset with mem := loadBytes cfg.glyphs [] progBase image, cfg := cfg }
  else .error (.imageTooLarge image.length)

/-- `set_keys(k)` (R298): the whole key vector is replaced. -/
def setKeys (k : Vector Bool 16) (s : State) : State := { s with key := k }

/-- `current_frame()` (R297): the 2048 pixels, and dirty cleared; on a faulted machine too (R283, D35). -/
def currentFrame (s : State) : Framebuffer × State := (s.FB, { s with dirty := false })

/-- `should_beep()` (R296): ST is nonzero, read between steps and so after the tick (D32). -/
def shouldBeep (s : State) : Bool := decide (s.ST ≠ 0x00#8)

/-- The calls the host may make on a machine, each wholly between two steps (R299, R300). -/
inductive HostCall where
  | step
  | setKeys (k : Vector Bool 16)
  | currentFrame
  | shouldBeep
  deriving DecidableEq, Repr

/-- What a call returns to the host (R299). -/
inductive HostReply where
  | nothing
  | stepped (o : StepOutcome)
  | frame (fb : Framebuffer)
  | beep (b : Bool)
  deriving DecidableEq, Repr

/-- One host call (R299): its reply and the machine after it. -/
def hostCall (c : HostCall) (s : State) : Host.Outcome (HostReply × State) Fault Refusal :=
  match c with
  | .step =>
    match Machine.step s with
    | .next s' => .next (.stepped s'.outcome, s')
    | .fault r => .fault r
    | .refused r => .refused r
  | .setKeys k => .next (.nothing, Machine.setKeys k s)
  | .currentFrame => .next (.frame (Machine.currentFrame s).1, (Machine.currentFrame s).2)
  | .shouldBeep => .next (.beep (Machine.shouldBeep s), s)

/-- A run of the machine: the host's calls one after another (R76, R300). -/
def runCalls : List HostCall → State → Result
  | [], s => .next s
  | c :: cs, s =>
    match hostCall c s with
    | .next (_, s') => runCalls cs s'
    | .fault r => .fault r
    | .refused r => .refused r

end Sys2Proof.Machine
end

