-- ==== Sys2Proof/Safety.lean ====
section
/-! DEFINITION. The terms claims are stated in: a running machine and a safe run (spec R37, R330), the invariant of the
machine (R27, R32, R60, R63), frames (what an instruction leaves unchanged), faults, and sprite bits. -/

namespace Sys2Proof.Machine

/-! ## Running and safe runs -/

/-- The machine is in the run status Running (R37). -/
abbrev State.Running (s : State) : Prop := s.status = .running

/-- `k` steps one after another. -/
def runSteps : Nat → State → Result
  | 0, s => .next s
  | k + 1, s =>
    match step s with
    | .next t => runSteps k t
    | .fault f => .fault f
    | .refused r => .refused r

/-- A safe run: the machine is Running now and after each of the next `k` steps, so that no step of them faults (R280,
R330). -/
def SafeRun : Nat → State → Prop
  | 0, s => s.Running
  | k + 1, s => s.Running ∧ ∃ t, step s = .next t ∧ SafeRun k t

/-! ## The invariant -/

/-- What holds in every state a run can reach: memory is in its canonical form, the glyph table holds GLYPHS (R38, R63),
pc is at most 0x10FE (R27), and every occupied stack slot is at most 0xFFE (R32). -/
structure State.Inv (s : State) : Prop where
  memCanonical : s.mem.wf s.cfg.glyphs = true
  glyphsIntact : ∀ (a : Nat) (h : a < 80), s.byteAt a = s.cfg.glyphs[a]
  pcBounded : s.pc.toNat ≤ 0x10FE
  returnsFetchable : ∀ (j : Nat) (h : j < 16), j < s.SP.val → s.stack[j].toNat ≤ 0xFFE

/-! ## Frames -/

/-- The parts of the state beside the general registers and pc that some instruction may change. -/
inductive Part where
  | index
  | memory
  | stack
  | delayTimer
  | soundTimer
  | display
  | draws
  | diag
  deriving DecidableEq, Repr

/-- From s to t nothing changes but the registers listed, the parts listed, and pc. Status, keys and parameters never
change in a frame; memory is compared by reading every byte. -/
structure Frame (regs : List Reg) (free : List Part) (s t : State) : Prop where
  regs : ∀ r, r ∉ regs → t.getV r = s.getV r
  index : Part.index ∉ free → t.I = s.I
  memory : Part.memory ∉ free → ∀ a, t.byteAt a = s.byteAt a
  stack : Part.stack ∉ free → t.SP = s.SP ∧ t.stack = s.stack
  delayTimer : Part.delayTimer ∉ free → t.DT = s.DT
  soundTimer : Part.soundTimer ∉ free → t.ST = s.ST
  display : Part.display ∉ free → t.FB = s.FB ∧ t.dirty = s.dirty ∧ t.drew = s.drew
  draws : Part.draws ∉ free → t.draws = s.draws
  diag : Part.diag ∉ free → t.diag = s.diag
  status : t.status = s.status
  key : t.key = s.key
  cfg : t.cfg = s.cfg

/-- Every byte outside the `n` bytes from `base` upward reads as before. -/
def BytesSameOutside (base n : Nat) (s t : State) : Prop :=
  ∀ a, ¬ (base ≤ a ∧ a < base + n) → t.byteAt a = s.byteAt a

/-! ## Faults -/

/-- The instruction raises the fault at this state: the next state has the record in status, with this instruction's
address and word, and nothing else changes (R281, R282). -/
def FaultsWith (i : Instr) (cause : FaultCause) (s : State) : Prop :=
  exec i s = .next { s with status := .faulted { cause := cause, pc := s.pc, op := some (encode i) } }

/-! ## Sprites -/

/-- The sprite of DXYN has a set bit at row and column (R241, R243): bit 7 of the row's byte is column 0. -/
def SpriteBitSet (s : State) (n : Nibble) (row col : Nat) : Prop :=
  row < n.toNat ∧ col < 8 ∧ (s.byteAt (effectiveAddress s row)).getLsbD (7 - col) = true

/-- The framebuffer index that row and column of the sprite at (V[X], V[Y]) target (R242). -/
def targetIndex (s : State) (x y : Reg) (row col : Nat) : Nat :=
  ((s.getV x).toNat + col) + ((s.getV y).toNat + row) * 64

/-- Some set bit of the sprite targets the index. -/
def SpriteTargets (s : State) (x y : Reg) (n : Nibble) (idx : Nat) : Prop :=
  ∃ row col, SpriteBitSet s n row col ∧ idx = targetIndex s x y row col

/-- The sprite's bytes are all in memory, or there is none (R241, R64). -/
def SpriteReadable (s : State) (n : Nibble) : Prop := n.toNat = 0 ∨ effectiveAddress s n.toNat ≤ 4096

end Sys2Proof.Machine
end

