-- ==== Sys2Proof/Certificates/Slice0/Obligations.lean ====
section
/-! DEFINITION. The statements for the provers. Each docstring names the rule of spec/ it formalises, and, where a clause
rests on a choice the spec marks as its own decision D<n> or on this model's log, says so. -/

open Sys2Proof Sys2Proof.Machine

/-! ## Encoding -/

/-- Decoding the encoding of any well-formed instruction gives it back, from its word and from its bytes followed by
anything (R91, R93, R94). -/
def Obligations.DecodeOfEncodeIsIdentity : Prop :=
  ∀ i : Instr, i.wellFormed = true →
    decode (encode i) = .ok i ∧ ∀ rest, decodeBytes (encodeBytes i ++ rest) = .ok (i, rest)

/-- A word that decodes is the encoding of what it decodes to: no bit of it is ignored (R95). That
0x01E0 and 0x5121 are no class is the choice to compare literal digits (D34, log 11). -/
def Obligations.EncodeOfDecodeIsIdentity : Prop :=
  (∀ (op : Word) (i : Instr), decode op = .ok i → encode i = op) ∧
  decode 0x01E0#16 = .error (.unrecognized 0x01E0#16) ∧ decode 0x5121#16 = .error (.unrecognized 0x5121#16)

/-- The decoder selects a class exactly when the word matches that class's row of the opcode map, no word matches two
rows, and a word that matches none is refused as unrecognized (R94, R96, R99). The literal digits compared are the spec's
choice D34. -/
def Obligations.DecoderFollowsOpcodeMap : Prop :=
  (∀ (op : Word) (r : OpcodeRow), r ∈ opcodeMap → (r.selects op = true ↔ ∃ i, decode op = .ok i ∧ i.cls = r.cls)) ∧
  (∀ (op : Word) (r q : OpcodeRow), r ∈ opcodeMap → q ∈ opcodeMap → r.selects op = true → q.selects op = true → r = q) ∧
  (∀ op : Word, wordWellFormed op = false ↔ decode op = .error (.unrecognized op))

/-- The words that take the fallback, group by group (R98; D24, D34). -/
def Obligations.FallbackWordsByGroup : Prop :=
  ∀ op : Word, decode op = .error (.unrecognized op) ↔
    (op.toNat / 4096 = 0x0 ∧ op.toNat ≠ 0x00E0 ∧ op.toNat ≠ 0x00EE) ∨
    (op.toNat / 4096 = 0x5 ∧ op.toNat % 16 ≠ 0) ∨
    (op.toNat / 4096 = 0x8 ∧ op.toNat % 16 ∈ [0x8, 0x9, 0xA, 0xB, 0xC, 0xD, 0xF]) ∨
    (op.toNat / 4096 = 0x9 ∧ op.toNat % 16 ≠ 0) ∨
    (op.toNat / 4096 = 0xE ∧ op.toNat % 256 ∉ [0x9E, 0xA1]) ∨
    (op.toNat / 4096 = 0xF ∧ op.toNat % 256 ∉ [0x07, 0x15, 0x18, 0x1E, 0x29, 0x33, 0x55, 0x65])

/-- A few words written out from R91 and R94 decode to the instruction they stand for; and 0x5121 is refused, by the choice
to compare the literal digit of 5XY0 (D34, log 11). -/
def Obligations.SampleWordsDecode : Prop :=
  decode 0b0000000011101110#16 = .ok .op00EE ∧
  decode 0b0010001100000100#16 = .ok (.op2NNN 0x304#12) ∧
  decode 0b0011000000000101#16 = .ok (.op3XKK 0x0#4 0x05#8) ∧
  decode 0b0110101001111111#16 = .ok (.op6XKK 0xA#4 0x7F#8) ∧
  decode 0b1000000100101110#16 = .ok (.op8XYE 0x1#4 0x2#4) ∧
  decode 0b1101000100100101#16 = .ok (.opDXYN 0x1#4 0x2#4 0x5#4) ∧
  decode 0b1110010110011110#16 = .ok (.opEX9E 0x5#4) ∧
  decode 0b1111001001100101#16 = .ok (.opFX65 0x2#4) ∧
  decode 0b0101000100100001#16 = .error (.unrecognized 0x5121#16)

/-! ## The step -/

/-- The fetch: the byte at pc, then the byte at pc + 1, high byte first, pc unchanged; where an address is past 0xFFF the
step ends before decode with MemOutOfRange (access = fetch), no instruction and no tick (R104). -/
def Obligations.FetchReadsTwoBytesHighFirst : Prop :=
  ∀ s : State, s.Running →
    (s.pc.toNat ≤ 0xFFE → ∃ op, fetchWord s = .ok op ∧
      op.toNat = (s.byteAt s.pc.toNat).toNat * 256 + (s.byteAt (s.pc.toNat + 1)).toNat) ∧
    (0xFFE < s.pc.toNat →
      fetchWord s = .error (.memOutOfRange (if s.pc.toNat = 0xFFF then 0x1000 else s.pc.toNat) .fetch) ∧
      ∃ t r, step s = .next t ∧ t = { s with status := .faulted r, drew := false, diag := none } ∧
        r.cause = .memOutOfRange (if s.pc.toNat = 0xFFF then 0x1000 else s.pc.toNat) .fetch)

/-- When the bytes at pc decode to an instruction i, the step is exec of i at that state with this step's outputs cleared,
and then, if it raised no fault, the tick of both timers (R103). That a fault ends the step without a tick is D8 (log 18). -/
def Obligations.StepRunsTheDecodedInstruction : Prop :=
  ∀ (s : State) (i : Instr), s.Running → s.pc.toNat ≤ 0xFFE →
    decode (joinBytes (s.byteAt s.pc.toNat) (s.byteAt (s.pc.toNat + 1))) = .ok i →
    ∀ u, exec i { s with drew := false, diag := none } = .next u →
      (u.Running → step s = .next (tick u)) ∧ (¬ u.Running → step s = .next u)

/-- A word that matches no row of R94 executes the fallback: the step completes, reports NotImplemented(pc, op), advances
pc by 2, ticks the timers, and changes nothing else (R96, R97; the report's content is D25, log 2). -/
def Obligations.UnrecognizedWordIsReportedNoOp : Prop :=
  ∀ (s : State) (op : Word), s.Running → s.pc.toNat ≤ 0xFFE →
    op = joinBytes (s.byteAt s.pc.toNat) (s.byteAt (s.pc.toNat + 1)) → (∀ r ∈ opcodeMap, r.selects op = false) →
    ∃ t, step s = .next t ∧ t.outcome = .completed false (some { pc := s.pc, op := op }) ∧
      t.pc.toNat = s.pc.toNat + 2 ∧ t.DT.toNat = s.DT.toNat - 1 ∧ t.ST.toNat = s.ST.toNat - 1 ∧ t.V = s.V ∧ t.I = s.I ∧
      t.stack = s.stack ∧ t.SP = s.SP ∧ t.mem = s.mem ∧ t.FB = s.FB ∧ t.dirty = s.dirty ∧ t.key = s.key ∧
      t.draws = s.draws ∧ t.cfg = s.cfg

/-- Every step that completes decrements each nonzero timer once, after the instruction (whichever it was, the fallback
included) (R294); that a step that faults does not tick is D8 (log 18). -/
def Obligations.EveryCompletedStepTicksOnce : Prop :=
  ∀ s t : State, s.Running → step s = .next t →
    (t.Running → ∃ u op, fetchWord s = .ok op ∧
      ((∃ i, decode op = .ok i ∧ exec i (beginStep s) = .next u) ∨
        (decode op = .error (.unrecognized op) ∧ execUnrecognized op (beginStep s) = .next u)) ∧
      t = { u with DT := t.DT, ST := t.ST } ∧ t.DT.toNat = u.DT.toNat - 1 ∧ t.ST.toNat = u.ST.toNat - 1) ∧
    (¬ t.Running → t.DT = s.DT ∧ t.ST = s.ST)

/-- The timer coupling seen over whole steps: FX07 reads DT before the step's tick; FX15 and FX18 write a value that the
same step's tick decrements; the sound signal after FX18 is true exactly for a value of 2 or more (R263, R260 to R262;
the signal is read after the tick: D32). -/
def Obligations.TimerWritesMeetTheSameStepsTick : Prop :=
  ∀ (s : State) (x : Reg), s.Running → s.pc.toNat ≤ 0xFFE →
    (decode (joinBytes (s.byteAt s.pc.toNat) (s.byteAt (s.pc.toNat + 1))) = .ok (.opFX07 x) →
      ∃ t, step s = .next t ∧ t.getV x = s.DT ∧ t.DT.toNat = s.DT.toNat - 1) ∧
    (decode (joinBytes (s.byteAt s.pc.toNat) (s.byteAt (s.pc.toNat + 1))) = .ok (.opFX15 x) →
      ∃ t, step s = .next t ∧ t.DT.toNat = (s.getV x).toNat - 1) ∧
    (decode (joinBytes (s.byteAt s.pc.toNat) (s.byteAt (s.pc.toNat + 1))) = .ok (.opFX18 x) →
      ∃ t, step s = .next t ∧ t.ST.toNat = (s.getV x).toNat - 1 ∧ (shouldBeep t = true ↔ 2 ≤ (s.getV x).toNat))

/-- What a step reports (R105; drew is D20, the diagnostic D25): Failed(r) exactly when the machine is Faulted(r) after
it; else Completed, with drew true exactly when 00E0 or DXYN executed and a diagnostic exactly for an unrecognized word. -/
def Obligations.StepReportsWhatItDid : Prop :=
  ∀ s t : State, s.Running → step s = .next t →
    (∀ r, t.outcome = .failed r ↔ t.status = .faulted r) ∧
    (t.Running → ∃ op, fetchWord s = .ok op ∧
      (t.drew = true ↔ decode op = .ok .op00E0 ∨ ∃ x y n, decode op = .ok (.opDXYN x y n)) ∧
      (∀ d, t.diag = some d ↔ decode op = .error (.unrecognized op) ∧ d = { pc := s.pc, op := op }))

/-- Every step answers a next state, from every state: decoding is total and nothing is refused (R97, R99, R105; that a
fault is a next state is log 1). -/
def Obligations.EveryStepAnswersANextState : Prop :=
  ∀ s : State, ∃ t, step s = .next t

/-! ## The invariant and the whole machine -/

/-- Every step keeps the invariant: canonical memory, the glyph table intact, pc at most 0x10FE so that no pc update
wraps, every occupied stack slot at most 0xFFE (R27, R32, R63). -/
def Obligations.StepKeepsTheInvariant : Prop :=
  ∀ s t : State, s.Inv → step s = .next t → t.Inv

/-- The invariant holds at reset. -/
def Obligations.ResetMeetsTheInvariant : Prop := State.reset.Inv

/-- A constructed machine meets the invariant, whatever the image and the parameters; and the invariant then holds along
every sequence of host calls, which never stops (R299, R320). -/
def Obligations.InvariantAlongEveryHostRun : Prop :=
  ∀ (cfg : Config) (image : List Byte) (s : State), construct cfg image = .ok s →
    s.Inv ∧ ∀ calls : List HostCall, ∃ t, runCalls calls s = .next t ∧ t.Inv ∧ t.cfg = cfg ∧
      ∀ (a : Nat) (h : a < 80), t.byteAt a = cfg.glyphs[a]

/-- No step, in any state, changes a byte of the glyph table (R63; the fault on a write is D7), the parameters, or the key
vector (R36). -/
def Obligations.GlyphTableIsImmutable : Prop :=
  ∀ s t : State, step s = .next t → (∀ a, a < 80 → t.byteAt a = s.byteAt a) ∧ t.cfg = s.cfg ∧ t.key = s.key

/-- The run status: a step from Running either completes or moves to Faulted, and no step leaves Faulted: any number of
steps changes nothing and returns the same failure (R37, R283). The same failure again is D35 (log 17); that a fault is a
next state, and that a step of a faulted machine answers that state again, is log 1. -/
def Obligations.FaultedIsTerminal : Prop :=
  (∀ s : State, s.Running → ∃ t, step s = .next t ∧
    ((t.Running ∧ ∃ drew diag, t.outcome = .completed drew diag) ∨ ∃ r, t.status = .faulted r ∧ t.outcome = .failed r)) ∧
  (∀ (s : State) (r : FaultRecord), s.status = .faulted r → ∀ k, runSteps k s = .next s ∧ s.outcome = .failed r)

/-- A run whose machine is Running after k steps was Running after each earlier step: it is a safe run (R37, R330). -/
def Obligations.RunningAtTheEndMeansASafeRun : Prop :=
  ∀ (k : Nat) (s t : State), runSteps k s = .next t → t.Running → SafeRun k s

/-- A fault is precise and has no partial effect: the state is the state before the step but for status and this step's
cleared outputs; the record's pc is the pc before the step and its op the fetched word, or none when the fetch faulted
(R281, R282: D8, D10; the outputs are log 2). -/
def Obligations.FaultRestoresTheStepsEntryState : Prop :=
  ∀ (s t : State) (r : FaultRecord), s.Running → step s = .next t → t.status = .faulted r →
    t = { s with status := .faulted r, drew := false, diag := none } ∧ r.pc = s.pc ∧
    (∀ op, fetchWord s = .ok op → r.op = some op) ∧ (∀ c, fetchWord s = .error c → r.op = none ∧ r.cause = c)

/-- Which instructions can fault after the fetch, and with which causes (R284, R285). -/
def Obligations.OnlyTheListedClassesFault : Prop :=
  ∀ (i : Instr) (s t : State) (r : FaultRecord), s.Running → exec i s = .next t → t.status = .faulted r →
    match i with
    | .op00EE => r.cause = .stackUnderflow 0
    | .op2NNN _ => r.cause = .stackOverflow 16
    | .opEX9E x | .opEXA1 x => r.cause = .keyIndexOutOfRange (s.getV x) ∧ 15 < (s.getV x).toNat
    | .opFX33 _ | .opFX55 _ =>
      ∃ a, (r.cause = .memOutOfRange a .write ∧ 4096 ≤ a) ∨ (r.cause = .glyphWrite a ∧ a ≤ 0x04F)
    | .opFX65 _ => ∃ a, r.cause = .memOutOfRange a .read ∧ 4096 ≤ a
    | .opDXYN _ _ _ =>
      ∃ a, (r.cause = .memOutOfRange a .read ∧ 4096 ≤ a) ∨
        (r.cause = .drawOutOfRange a ∧ 2048 ≤ a ∧ s.cfg.drawOob = .fault)
    | _ => False

/-- The next pc of every class, as the table of R25 summarises it (all sums mod 2^16); a step that faults leaves pc
unchanged. -/
def Obligations.NextPcOfEveryClass : Prop :=
  ∀ (i : Instr) (s : State), s.Running → ∃ t, exec i s = .next t ∧ (¬ t.Running → t.pc = s.pc) ∧
    (t.Running →
      match i with
      | .op1NNN nnn | .op2NNN nnn => t.pc.toNat = nnn.toNat
      | .op00EE => ∀ h : 0 < s.SP.val, t.pc = s.stack[s.SP.val - 1]'(by have := s.SP.isLt; omega) + 2#16
      | .opBNNN nnn => t.pc.toNat = (s.getV 0x0#4).toNat + nnn.toNat
      | .op3XKK x kk => t.pc = s.pc + (if s.getV x = kk then 4#16 else 2#16)
      | .op4XKK x kk => t.pc = s.pc + (if s.getV x = kk then 2#16 else 4#16)
      | .op5XY0 x y => t.pc = s.pc + (if s.getV x = s.getV y then 4#16 else 2#16)
      | .op9XY0 x y => t.pc = s.pc + (if s.getV x = s.getV y then 2#16 else 4#16)
      | .opEX9E x => ∀ h : (s.getV x).toNat < 16, t.pc = s.pc + (if s.key[(s.getV x).toNat] = true then 4#16 else 2#16)
      | .opEXA1 x => ∀ h : (s.getV x).toNat < 16, t.pc = s.pc + (if s.key[(s.getV x).toNat] = true then 2#16 else 4#16)
      | _ => t.pc = s.pc + 2#16)

/-- Memory is written by FX33 and FX55 only, and the random source is drawn by CXKK only (R73, R162). -/
def Obligations.OnlyStoresWriteMemory : Prop :=
  ∀ (i : Instr) (s t : State), exec i s = .next t →
    ((∀ x, i ≠ .opFX33 x) → (∀ x, i ≠ .opFX55 x) → t.mem = s.mem) ∧ ((∀ x kk, i ≠ .opCXKK x kk) → t.draws = s.draws)

/-- The stack is touched by 2NNN and 00EE only, the framebuffer and the dirty flag by 00E0 and DXYN only, DT by FX15 only,
ST by FX18 only, I by ANNN, FX1E and FX29 only, beside the tick (R30, R31, R34, R35, R68, R295). -/
def Obligations.EachStoreHasItsWriters : Prop :=
  ∀ (i : Instr) (s t : State), exec i s = .next t →
    (i ≠ .op00EE → (∀ a, i ≠ .op2NNN a) → t.stack = s.stack ∧ t.SP = s.SP) ∧
    (i ≠ .op00E0 → (∀ x y n, i ≠ .opDXYN x y n) → t.FB = s.FB ∧ t.dirty = s.dirty) ∧
    ((∀ x, i ≠ .opFX15 x) → t.DT = s.DT) ∧ ((∀ x, i ≠ .opFX18 x) → t.ST = s.ST) ∧
    ((∀ a, i ≠ .opANNN a) → (∀ x, i ≠ .opFX1E x) → (∀ x, i ≠ .opFX29 x) → t.I = s.I)

/-- VF as a side effect: an instruction that is none of 8XY4 to 8XY7, 8XYE and DXYN changes VF only where its X (or the
block V0..V[X] of FX65) names register 15 (R23, R28). -/
def Obligations.FlagHasItsWriters : Prop :=
  ∀ (i : Instr) (s t : State), exec i s = .next t → t.getV flagReg ≠ s.getV flagReg →
    match i with
    | .op8XY4 _ _ | .op8XY5 _ _ | .op8XY6 _ _ | .op8XY7 _ _ | .op8XYE _ _ => True
    | .opDXYN _ _ _ => t.getV flagReg = 0x01#8
    | .op6XKK x _ | .op7XKK x _ | .op8XY0 x _ | .op8XY1 x _ | .op8XY2 x _ | .op8XY3 x _ | .opCXKK x _ | .opFX07 x
    | .opFX65 x => x = flagReg
    | _ => False

/-- ST is read by no instruction: two machines that differ only in ST answer steps that differ at most in ST; and DT is
read only by FX07 (R295). -/
def Obligations.TimersAreNotReadByOtherInstructions : Prop :=
  (∀ (s : State) (b : Byte), ∃ t u, step s = .next t ∧ step (s.setST b) = .next u ∧ u.setST t.ST = t) ∧
  (∀ (i : Instr) (s : State) (b : Byte), (∀ x, i ≠ .opFX07 x) →
    ∃ t u, exec i s = .next t ∧ exec i (s.setDT b) = .next u ∧ u.setDT t.DT = t)

/-- No instruction reads the dirty flag, and none reads an output of an earlier step: two machines that differ only there
answer steps that differ at most in dirty, and there only when the step neither cleared nor drew (R35; outputs log 2). -/
def Obligations.DirtyAndOutputsAreNotRead : Prop :=
  ∀ (s : State) (d w : Bool) (g : Option Diagnostic), s.Running →
    ∃ t u, step s = .next t ∧ step { s with dirty := d, drew := w, diag := g } = .next u ∧
      u = { t with dirty := u.dirty } ∧ (u.dirty = t.dirty ∨ (t.dirty = s.dirty ∧ u.dirty = d))

/-- The key state is 16 Booleans that only the host writes and only EX9E and EXA1 read: no instruction changes it, every
other instruction does the same whatever it is, and `set_keys` changes nothing else (R36). -/
def Obligations.KeysAreReadByKeySkipsOnly : Prop :=
  (∀ (i : Instr) (s t : State), exec i s = .next t → t.key = s.key) ∧
  (∀ (i : Instr) (s : State) (k : Vector Bool 16), (∀ x, i ≠ .opEX9E x) → (∀ x, i ≠ .opEXA1 x) →
    ∃ t, exec i s = .next t ∧ exec i (setKeys k s) = .next (setKeys k t)) ∧
  (∀ (s : State) (k : Vector Bool 16), hostCall (.setKeys k) s = .next (.nothing, { s with key := k }))

/-! ## Control transfer -/

/-- 1NNN jumps to NNN and changes nothing else; after a jump to 0xFFF the next fetch faults at 0x1000 (R122;
that the jump is taken unchecked and the next fetch faults is D30, log 15). -/
def Obligations.JumpGoesToItsAddress : Prop :=
  ∀ (nnn : Addr12) (s : State), (encode (.op1NNN nnn)).toNat = 0x1000 + nnn.toNat ∧
    ∃ t, exec (.op1NNN nnn) s = .next t ∧ t.pc.toNat = nnn.toNat ∧ Frame [] [] s t ∧
      (nnn = 0xFFF#12 → fetchWord t = .error (.memOutOfRange 0x1000 .fetch))

/-- 2NNN with a free slot pushes its own address and jumps; with the stack full it raises StackOverflow and the step has no
effect (R123). -/
def Obligations.CallPushesItsOwnAddress : Prop :=
  ∀ (nnn : Addr12) (s : State), (encode (.op2NNN nnn)).toNat = 0x2000 + nnn.toNat ∧
    (∀ h : s.SP.val < 16, ∃ t, exec (.op2NNN nnn) s = .next t ∧ t.pc.toNat = nnn.toNat ∧ t.SP.val = s.SP.val + 1 ∧
      t.stack[s.SP.val] = s.pc ∧ (∀ (j : Nat) (hj : j < 16), j ≠ s.SP.val → t.stack[j] = s.stack[j]) ∧
      Frame [] [.stack] s t) ∧
    (s.SP.val = 16 → ∃ r, exec (.op2NNN nnn) s = .next { s with status := .faulted r } ∧ r.cause = .stackOverflow 16)

/-- 00EE with a return address pops it and goes 2 past it; the slot keeps its value; with the stack empty it raises
StackUnderflow and the step has no effect (R121). -/
def Obligations.ReturnGoesPastTheCall : Prop :=
  ∀ s : State, (encode .op00EE).toNat = 0x00EE ∧
    (∀ h : 0 < s.SP.val, ∃ t, exec .op00EE s = .next t ∧ t.SP.val + 1 = s.SP.val ∧
      t.pc.toNat = ((s.stack[s.SP.val - 1]'(by have := s.SP.isLt; omega)).toNat + 2) % 65536 ∧ t.stack = s.stack ∧
      Frame [] [.stack] s t) ∧
    (s.SP.val = 0 → ∃ r, exec .op00EE s = .next { s with status := .faulted r } ∧ r.cause = .stackUnderflow 0)

/-- BNNN jumps to V0 + NNN, not reduced to 12 bits, whatever op[11:8] holds; a target of 0xFFF or more makes the next
fetch fault (R124; the missing check is D30). -/
def Obligations.IndexedJumpAddsV0 : Prop :=
  ∀ (nnn : Addr12) (s : State), (encode (.opBNNN nnn)).toNat = 0xB000 + nnn.toNat ∧
    ∃ t, exec (.opBNNN nnn) s = .next t ∧ t.pc.toNat = (s.getV 0x0#4).toNat + nnn.toNat ∧ Frame [] [] s t ∧
      (0xFFF ≤ t.pc.toNat → ∃ a, 0x1000 ≤ a ∧ fetchWord t = .error (.memOutOfRange a .fetch))

/-- Call and return pairing (R125): after a 2NNN at address a, however many steps are taken while SP stays above its value
before the call, a 00EE that finds SP back at one above that value leaves pc = a + 2 and SP as before the call. -/
def Obligations.ReturnPairsWithItsCall : Prop :=
  ∀ (nnn : Addr12) (s s1 s2 : State) (k : Nat), s.SP.val < 16 → exec (.op2NNN nnn) s = .next s1 → runSteps k s1 = .next s2 →
    (∀ j u, j ≤ k → runSteps j s1 = .next u → s.SP.val < u.SP.val) → s2.SP.val = s.SP.val + 1 →
    ∃ t, exec .op00EE s2 = .next t ∧ t.pc = s.pc + 2#16 ∧ t.SP = s.SP

/-! ## Skips -/

/-- 3XKK, 4XKK, 5XY0 and 9XY0: pc + 4 when the condition holds, else pc + 2, mod 2^16, and nothing else (R141 to R144). -/
def Obligations.RegisterSkipsTestTheirCondition : Prop :=
  ∀ (x y : Reg) (kk : Byte) (s : State),
    ((encode (.op3XKK x kk)).toNat = 0x3000 + x.toNat * 256 + kk.toNat ∧
      ∃ t, exec (.op3XKK x kk) s = .next t ∧
        t.pc.toNat = (s.pc.toNat + if (s.getV x).toNat = kk.toNat then 4 else 2) % 65536 ∧ Frame [] [] s t) ∧
    ((encode (.op4XKK x kk)).toNat = 0x4000 + x.toNat * 256 + kk.toNat ∧
      ∃ t, exec (.op4XKK x kk) s = .next t ∧
        t.pc.toNat = (s.pc.toNat + if (s.getV x).toNat = kk.toNat then 2 else 4) % 65536 ∧ Frame [] [] s t) ∧
    ((encode (.op5XY0 x y)).toNat = 0x5000 + x.toNat * 256 + y.toNat * 16 ∧
      ∃ t, exec (.op5XY0 x y) s = .next t ∧
        t.pc.toNat = (s.pc.toNat + if (s.getV x).toNat = (s.getV y).toNat then 4 else 2) % 65536 ∧ Frame [] [] s t) ∧
    ((encode (.op9XY0 x y)).toNat = 0x9000 + x.toNat * 256 + y.toNat * 16 ∧
      ∃ t, exec (.op9XY0 x y) s = .next t ∧
        t.pc.toNat = (s.pc.toNat + if (s.getV x).toNat = (s.getV y).toNat then 2 else 4) % 65536 ∧ Frame [] [] s t)

/-- EX9E and EXA1 skip on the key numbered V[X] held, not held; V[X] above 15 raises KeyIndexOutOfRange (R145, R146; the
fault is D17). -/
def Obligations.KeySkipsTestTheKey : Prop :=
  ∀ (x : Reg) (s : State),
    (∀ h : (s.getV x).toNat < 16,
      (∃ t, exec (.opEX9E x) s = .next t ∧
        t.pc.toNat = (s.pc.toNat + if s.key[(s.getV x).toNat] = true then 4 else 2) % 65536 ∧ Frame [] [] s t) ∧
      (∃ t, exec (.opEXA1 x) s = .next t ∧
        t.pc.toNat = (s.pc.toNat + if s.key[(s.getV x).toNat] = true then 2 else 4) % 65536 ∧ Frame [] [] s t)) ∧
    (15 < (s.getV x).toNat →
      FaultsWith (.opEX9E x) (.keyIndexOutOfRange (s.getV x)) s ∧
      FaultsWith (.opEXA1 x) (.keyIndexOutOfRange (s.getV x)) s)

/-! ## Register loads -/

/-- 6XKK writes KK into V[X]; X = 0xF loads VF; nothing else changes but pc (R160). -/
def Obligations.LoadImmediateWritesTheByte : Prop :=
  ∀ (x : Reg) (kk : Byte) (s : State), (encode (.op6XKK x kk)).toNat = 0x6000 + x.toNat * 256 + kk.toNat ∧
    ∃ t, exec (.op6XKK x kk) s = .next t ∧ t.getV x = kk ∧ t.pc = s.pc + 2#16 ∧ Frame [x] [] s t

/-- 7XKK adds KK to V[X] modulo 256; VF is unchanged unless X = 0xF (R161). -/
def Obligations.AddImmediateWrapsWithoutFlag : Prop :=
  ∀ (x : Reg) (kk : Byte) (s : State), (encode (.op7XKK x kk)).toNat = 0x7000 + x.toNat * 256 + kk.toNat ∧
    ∃ t, exec (.op7XKK x kk) s = .next t ∧ (t.getV x).toNat = ((s.getV x).toNat + kk.toNat) % 256 ∧
      t.pc = s.pc + 2#16 ∧ Frame [x] [] s t

/-- CXKK writes the drawn byte masked by KK, whatever byte the oracle answers; no bit outside KK is set; the next draw is
a fresh one (R162, D23; the oracle's form is log 6). -/
def Obligations.RandomByteIsMasked : Prop :=
  ∀ (x : Reg) (kk : Byte) (s : State), (encode (.opCXKK x kk)).toNat = 0xC000 + x.toNat * 256 + kk.toNat ∧
    ∃ t, exec (.opCXKK x kk) s = .next t ∧ t.draws = s.draws + 1 ∧ t.pc = s.pc + 2#16 ∧ Frame [x] [.draws] s t ∧
      ∀ j, (t.getV x).getLsbD j = ((Config.randomByte s.draws).getLsbD j && kk.getLsbD j)

/-! ## ALU -/

/-- 8XY0 to 8XY3: copy, OR, AND, XOR bit by bit; no flag is written (R181 to R184). -/
def Obligations.CopyAndLogicWriteNoFlag : Prop :=
  ∀ (x y : Reg) (s : State),
    ((encode (.op8XY0 x y)).toNat = 0x8000 + x.toNat * 256 + y.toNat * 16 ∧
      ∃ t, exec (.op8XY0 x y) s = .next t ∧ t.pc = s.pc + 2#16 ∧ Frame [x] [] s t ∧ t.getV x = s.getV y) ∧
    ((encode (.op8XY1 x y)).toNat = 0x8001 + x.toNat * 256 + y.toNat * 16 ∧
      ∃ t, exec (.op8XY1 x y) s = .next t ∧ t.pc = s.pc + 2#16 ∧ Frame [x] [] s t ∧
        ∀ j, (t.getV x).getLsbD j = ((s.getV x).getLsbD j || (s.getV y).getLsbD j)) ∧
    ((encode (.op8XY2 x y)).toNat = 0x8002 + x.toNat * 256 + y.toNat * 16 ∧
      ∃ t, exec (.op8XY2 x y) s = .next t ∧ t.pc = s.pc + 2#16 ∧ Frame [x] [] s t ∧
        ∀ j, (t.getV x).getLsbD j = ((s.getV x).getLsbD j && (s.getV y).getLsbD j)) ∧
    ((encode (.op8XY3 x y)).toNat = 0x8003 + x.toNat * 256 + y.toNat * 16 ∧
      ∃ t, exec (.op8XY3 x y) s = .next t ∧ t.pc = s.pc + 2#16 ∧ Frame [x] [] s t ∧
        ∀ j, (t.getV x).getLsbD j = ((s.getV x).getLsbD j ^^ (s.getV y).getLsbD j))

/-- 8XY4 (R185): VF is the carry and V[X] the sum mod 256; the cases X = 0xF and Y = 0xF follow the order of R180, which is
the spec's choice D16 (log 9). -/
def Obligations.AddSetsCarry : Prop :=
  ∀ (x y : Reg) (s : State) (a b f : Nat), a = (s.getV x).toNat → b = (s.getV y).toNat →
    f = (if 256 ≤ a + b then 1 else 0) →
    ∃ t, exec (.op8XY4 x y) s = .next t ∧ t.pc = s.pc + 2#16 ∧ Frame [x, flagReg] [] s t ∧
      (x ≠ flagReg → (t.getV flagReg).toNat = f) ∧
      (x ≠ flagReg → y ≠ flagReg → (t.getV x).toNat = (a + b) % 256) ∧
      (x ≠ flagReg → y = flagReg → (t.getV x).toNat = (a + f) % 256) ∧
      (x = flagReg → y ≠ flagReg → (t.getV flagReg).toNat = (f + b) % 256) ∧
      (x = flagReg → y = flagReg → (t.getV flagReg).toNat = 2 * f)

/-- 8XY5 (R186): VF is 1 exactly when V[X] > V[Y], V[X] the difference mod 256; order D16 (log 9). -/
def Obligations.SubtractSetsStrictGreater : Prop :=
  ∀ (x y : Reg) (s : State) (a b f : Nat), a = (s.getV x).toNat → b = (s.getV y).toNat →
    f = (if b < a then 1 else 0) →
    ∃ t, exec (.op8XY5 x y) s = .next t ∧ t.pc = s.pc + 2#16 ∧ Frame [x, flagReg] [] s t ∧
      (x ≠ flagReg → (t.getV flagReg).toNat = f) ∧
      (x ≠ flagReg → y ≠ flagReg → (t.getV x).toNat = (a + 256 - b) % 256) ∧
      (x ≠ flagReg → y = flagReg → (t.getV x).toNat = (a + 256 - f) % 256) ∧
      (x = flagReg → y ≠ flagReg → (t.getV flagReg).toNat = (f + 256 - b) % 256) ∧
      (x = flagReg → y = flagReg → (t.getV flagReg).toNat = 0)

/-- 8XY6 (R187): VF is bit 0 of V[X], V[X] is V[Y] shifted right by one; order D16 (log 9). -/
def Obligations.ShiftRightTakesFlagFromVx : Prop :=
  ∀ (x y : Reg) (s : State) (a b f : Nat), a = (s.getV x).toNat → b = (s.getV y).toNat → f = a % 2 →
    ∃ t, exec (.op8XY6 x y) s = .next t ∧ t.pc = s.pc + 2#16 ∧ Frame [x, flagReg] [] s t ∧
      (x ≠ flagReg → (t.getV flagReg).toNat = f) ∧
      (y ≠ flagReg → (t.getV x).toNat = b / 2) ∧
      (y = flagReg → (t.getV x).toNat = 0)

/-- 8XY7 (R188): VF is 1 exactly when V[Y] > V[X], V[X] is V[Y] - V[X] mod 256; order D16 (log 9). -/
def Obligations.ReverseSubtractSetsStrictGreater : Prop :=
  ∀ (x y : Reg) (s : State) (a b f : Nat), a = (s.getV x).toNat → b = (s.getV y).toNat →
    f = (if a < b then 1 else 0) →
    ∃ t, exec (.op8XY7 x y) s = .next t ∧ t.pc = s.pc + 2#16 ∧ Frame [x, flagReg] [] s t ∧
      (x ≠ flagReg → (t.getV flagReg).toNat = f) ∧
      (x ≠ flagReg → y ≠ flagReg → (t.getV x).toNat = (b + 256 - a) % 256) ∧
      (x ≠ flagReg → y = flagReg → (t.getV x).toNat = (f + 256 - a) % 256) ∧
      (x = flagReg → y ≠ flagReg → (t.getV flagReg).toNat = (b + 256 - f) % 256) ∧
      (x = flagReg → y = flagReg → (t.getV flagReg).toNat = 0)

/-- 8XYE (R189): VF is bit 7 of V[X], V[X] is V[Y] shifted left by one mod 256; order D16 (log 9). -/
def Obligations.ShiftLeftTakesFlagFromVx : Prop :=
  ∀ (x y : Reg) (s : State) (a b f : Nat), a = (s.getV x).toNat → b = (s.getV y).toNat → f = a / 128 →
    ∃ t, exec (.op8XYE x y) s = .next t ∧ t.pc = s.pc + 2#16 ∧ Frame [x, flagReg] [] s t ∧
      (x ≠ flagReg → (t.getV flagReg).toNat = f) ∧
      (y ≠ flagReg → (t.getV x).toNat = 2 * b % 256) ∧
      (y = flagReg → (t.getV x).toNat = 2 * f)

/-! ## Index register and memory -/

/-- ANNN writes NNN into I (R210). -/
def Obligations.LoadIndexWritesTheAddress : Prop :=
  ∀ (nnn : Addr12) (s : State), (encode (.opANNN nnn)).toNat = 0xA000 + nnn.toNat ∧
    ∃ t, exec (.opANNN nnn) s = .next t ∧ t.I.toNat = nnn.toNat ∧ t.pc = s.pc + 2#16 ∧ Frame [] [.index] s t

/-- FX1E adds V[X] to I modulo 65536 without touching the flag (R211). -/
def Obligations.AddToIndexWrapsWithoutFlag : Prop :=
  ∀ (x : Reg) (s : State), (encode (.opFX1E x)).toNat = 0xF01E + x.toNat * 256 ∧
    ∃ t, exec (.opFX1E x) s = .next t ∧ t.I.toNat = (s.I.toNat + (s.getV x).toNat) % 65536 ∧ t.pc = s.pc + 2#16 ∧
      Frame [] [.index] s t

/-- FX29 sets I to V[X] times 5, exactly and unmasked (R212). -/
def Obligations.GlyphPointerIsFiveTimesTheDigit : Prop :=
  ∀ (x : Reg) (s : State), (encode (.opFX29 x)).toNat = 0xF029 + x.toNat * 256 ∧
    ∃ t, exec (.opFX29 x) s = .next t ∧ t.I.toNat = (s.getV x).toNat * 5 ∧ t.pc = s.pc + 2#16 ∧ Frame [] [.index] s t

/-- FX33 stores the hundreds, tens and units digits of V[X] at I, I+1 and I+2 and changes no other byte; it raises
GlyphWrite or MemOutOfRange at the first failing address, and a fault discards all the writes (R213). -/
def Obligations.DecimalDigitsAreStored : Prop :=
  ∀ (x : Reg) (s : State) (v : Nat), v = (s.getV x).toNat →
    (encode (.opFX33 x)).toNat = 0xF033 + x.toNat * 256 ∧
    (0x050 ≤ effectiveAddress s 0 → effectiveAddress s 2 < 4096 →
      ∃ t, exec (.opFX33 x) s = .next t ∧ (t.byteAt (effectiveAddress s 0)).toNat = v / 100 ∧
        (t.byteAt (effectiveAddress s 1)).toNat = v / 10 % 10 ∧ (t.byteAt (effectiveAddress s 2)).toNat = v % 10 ∧
        BytesSameOutside (effectiveAddress s 0) 3 s t ∧ t.pc = s.pc + 2#16 ∧ Frame [] [.memory] s t) ∧
    (effectiveAddress s 0 ≤ 0x04F → ∃ r, exec (.opFX33 x) s = .next { s with status := .faulted r } ∧
      r.cause = .glyphWrite (effectiveAddress s 0)) ∧
    (4096 ≤ effectiveAddress s 2 → ∃ r, exec (.opFX33 x) s = .next { s with status := .faulted r } ∧
      r.cause = .memOutOfRange (max (effectiveAddress s 0) 4096) .write)

/-- FX55 stores V0 to V[X] from I upward and changes no other byte, I included (D18, log 13); it faults at the first
failing address with nothing written (R214). -/
def Obligations.RegistersAreStored : Prop :=
  ∀ (x : Reg) (s : State), (encode (.opFX55 x)).toNat = 0xF055 + x.toNat * 256 ∧
    (0x050 ≤ effectiveAddress s 0 → effectiveAddress s x.toNat < 4096 →
      ∃ t, exec (.opFX55 x) s = .next t ∧
        (∀ k, k ≤ x.toNat → t.byteAt (effectiveAddress s k) = s.getV (BitVec.ofNat 4 k)) ∧
        BytesSameOutside (effectiveAddress s 0) (x.toNat + 1) s t ∧ t.pc = s.pc + 2#16 ∧ Frame [] [.memory] s t) ∧
    (effectiveAddress s 0 ≤ 0x04F → FaultsWith (.opFX55 x) (.glyphWrite (effectiveAddress s 0)) s) ∧
    (4096 ≤ effectiveAddress s x.toNat → 0x050 ≤ effectiveAddress s 0 →
      FaultsWith (.opFX55 x) (.memOutOfRange (max (effectiveAddress s 0) 4096) .write) s)

/-- FX65 loads V0 to V[X] from I upward and changes no other register, I included (D18, log 13); it faults at the first
address past memory with no register written (R215). -/
def Obligations.RegistersAreLoaded : Prop :=
  ∀ (x : Reg) (s : State), (encode (.opFX65 x)).toNat = 0xF065 + x.toNat * 256 ∧
    (effectiveAddress s x.toNat < 4096 →
      ∃ t, exec (.opFX65 x) s = .next t ∧
        (∀ r : Reg, r.toNat ≤ x.toNat → t.getV r = s.byteAt (effectiveAddress s r.toNat)) ∧
        (∀ r : Reg, x.toNat < r.toNat → t.getV r = s.getV r) ∧ t.pc = s.pc + 2#16 ∧
        Frame ((List.range (x.toNat + 1)).map (BitVec.ofNat 4)) [] s t) ∧
    (4096 ≤ effectiveAddress s x.toNat →
      FaultsWith (.opFX65 x) (.memOutOfRange (max (effectiveAddress s 0) 4096) .read) s)

/-- A store takes effect at the next fetch of the address (R79, D29): after FX55 with X of 1 or more, a fetch at the old I
reads V0 as the high byte and V1 as the low byte. -/
def Obligations.StoredBytesAreFetched : Prop :=
  ∀ (x : Reg) (s : State), 1 ≤ x.toNat → 0x050 ≤ effectiveAddress s 0 → effectiveAddress s x.toNat < 4096 →
    ∃ t, exec (.opFX55 x) s = .next t ∧ fetchWord (t.setPc s.I) = .ok (joinBytes (s.getV 0x0#4) (s.getV 0x1#4))

/-- A store changes exactly the one cell (R74) and keeps the memory's canonical form. -/
def Obligations.StoreChangesOneCell : Prop :=
  ∀ (g : Glyphs) (m m' : Memory) (a : Nat) (v : Byte), memWrite g m a v = .ok m' →
    0x050 ≤ a ∧ a < 4096 ∧ (∀ b, m'.byteAt g b = if b = a then v else m.byteAt g b) ∧ (m.wf g = true → m'.wf g = true)

/-! ## Display -/

/-- 00E0 clears every pixel and marks the framebuffer dirty (R240; that it sets dirty is D19, log 14). -/
def Obligations.ClearScreenClearsEveryPixel : Prop :=
  ∀ s : State, (encode .op00E0).toNat = 0x00E0 ∧
    ∃ t, exec .op00E0 s = .next t ∧ (∀ j, j < 2048 → pixel t.FB j = false) ∧ t.dirty = true ∧ t.drew = true ∧
      t.pc = s.pc + 2#16 ∧ Frame [] [.display] s t

/-- DXYN whose sprite is readable, under Clip or with every target in range: each targeted pixel is flipped and no other,
VF is 1 on a collision and unchanged without one, dirty is set (R241, R242, R245; D13, D14, D15, log 10). -/
def Obligations.DrawFlipsTheTargetedPixels : Prop :=
  ∀ (x y : Reg) (n : Nibble) (s : State), SpriteReadable s n →
    (s.cfg.drawOob = .clip ∨ ∀ idx, SpriteTargets s x y n idx → idx < 2048) →
    ∃ t, exec (.opDXYN x y n) s = .next t ∧
      (∀ idx, idx < 2048 → SpriteTargets s x y n idx → pixel t.FB idx = !pixel s.FB idx) ∧
      (∀ idx, idx < 2048 → ¬ SpriteTargets s x y n idx → pixel t.FB idx = pixel s.FB idx) ∧
      ((∃ idx, idx < 2048 ∧ SpriteTargets s x y n idx ∧ pixel s.FB idx = true) → t.getV flagReg = 0x01#8) ∧
      ((¬ ∃ idx, idx < 2048 ∧ SpriteTargets s x y n idx ∧ pixel s.FB idx = true) → t.getV flagReg = s.getV flagReg) ∧
      t.dirty = true ∧ t.drew = true ∧ t.pc = s.pc + 2#16 ∧ Frame [flagReg] [.display] s t

/-- DXYN faults: MemOutOfRange at the first sprite address past memory; under DRAW_OOB = Fault, DrawOutOfRange at the first
out-of-range pixel in row-then-column order (R241, R244, R286; D12, D15). -/
def Obligations.DrawFaultsAtTheFirstBadAccess : Prop :=
  ∀ (x y : Reg) (n : Nibble) (s : State),
    (¬ SpriteReadable s n → FaultsWith (.opDXYN x y n) (.memOutOfRange (max (effectiveAddress s 0) 4096) .read) s) ∧
    (∀ row col, SpriteReadable s n → s.cfg.drawOob = .fault → SpriteBitSet s n row col →
      2048 ≤ targetIndex s x y row col →
      (∀ row' col', SpriteBitSet s n row' col' → (row' < row ∨ (row' = row ∧ col' < col)) →
        targetIndex s x y row' col' < 2048) →
      FaultsWith (.opDXYN x y n) (.drawOutOfRange (targetIndex s x y row col)) s)

/-- Drawing the same sprite twice at the same coordinates restores every pixel, and the second draw sets VF to 1 when the
sprite has an in-range set bit (R245). Where the first draw found every target lit, the second collides with nothing, and
that VF then keeps the first draw's 1 is D13 (log 10). -/
def Obligations.DrawingTwiceRestoresTheFrame : Prop :=
  ∀ (x y : Reg) (n : Nibble) (s t u : State), s.Running → exec (.opDXYN x y n) s = .next t → t.Running →
    t.getV x = s.getV x → t.getV y = s.getV y → exec (.opDXYN x y n) t = .next u →
    u.Running ∧ (∀ idx, idx < 2048 → pixel u.FB idx = pixel s.FB idx) ∧
      ((∃ idx, idx < 2048 ∧ SpriteTargets s x y n idx) → u.getV flagReg = 0x01#8)

/-! ## Timers -/

/-- FX07, FX15 and FX18: V[X] = DT, DT = V[X], ST = V[X], and nothing else; the tick after them decrements the timer, a
value just written included (R260, R261, R262). -/
def Obligations.TimerAccessCopiesTheByte : Prop :=
  ∀ (x : Reg) (s : State),
    ((encode (.opFX07 x)).toNat = 0xF007 + x.toNat * 256 ∧
      ∃ t, exec (.opFX07 x) s = .next t ∧ t.getV x = s.DT ∧ t.pc = s.pc + 2#16 ∧ Frame [x] [] s t ∧
        (tick t).DT.toNat = s.DT.toNat - 1) ∧
    ((encode (.opFX15 x)).toNat = 0xF015 + x.toNat * 256 ∧
      ∃ t, exec (.opFX15 x) s = .next t ∧ t.DT = s.getV x ∧ t.pc = s.pc + 2#16 ∧ Frame [] [.delayTimer] s t ∧
        (tick t).DT.toNat = (s.getV x).toNat - 1) ∧
    ((encode (.opFX18 x)).toNat = 0xF018 + x.toNat * 256 ∧
      ∃ t, exec (.opFX18 x) s = .next t ∧ t.ST = s.getV x ∧ t.pc = s.pc + 2#16 ∧ Frame [] [.soundTimer] s t ∧
        (tick t).ST.toNat = (s.getV x).toNat - 1)

/-! ## Construction and the host -/

/-- Construction (R320, R304, R40; the values but pc and the placed bytes are D3, D4, D5, D8, the size check D21): an image
of at most 3584 bytes gives a machine with the glyph table, the image at 0x200 and 0x00 elsewhere, everything else clear;
a longer one fails with its size. -/
def Obligations.ConstructionPlacesTheImage : Prop :=
  ∀ (cfg : Config) (image : List Byte),
    (image.length ≤ 3584 → ∃ s, construct cfg image = .ok s ∧
      (∀ (a : Nat) (h : a < 80), s.byteAt a = cfg.glyphs[a]) ∧
      (∀ (k : Nat) (h : k < image.length), s.byteAt (0x200 + k) = image[k]) ∧
      (∀ a, 80 ≤ a → (a < 0x200 ∨ 0x200 + image.length ≤ a) → s.byteAt a = 0x00#8) ∧
      s.pc = 0x200#16 ∧ (∀ r, s.getV r = 0x00#8) ∧ s.I = 0x0000#16 ∧ s.SP.val = 0 ∧
      (∀ (j : Nat) (h : j < 16), s.stack[j] = 0x0000#16 ∧ s.key[j] = false) ∧ s.DT = 0x00#8 ∧ s.ST = 0x00#8 ∧
      (∀ j, pixel s.FB j = false) ∧ s.dirty = false ∧ s.Running ∧ s.cfg = cfg) ∧
    (3584 < image.length → construct cfg image = .error (.imageTooLarge image.length))

/-- The entry point is 0x200: the first step of a constructed machine fetches the word at 0x200 and 0x201 (R322);
that the machine is Running then is D8 (log 7). -/
def Obligations.FirstStepFetchesTheFirstWord : Prop :=
  ∀ (cfg : Config) (b0 b1 : Byte) (rest : List Byte) (s : State), construct cfg (b0 :: b1 :: rest) = .ok s →
    s.pc = 0x200#16 ∧ s.Running ∧ fetchWord s = .ok (joinBytes b0 b1) ∧
    ∀ i u, decode (joinBytes b0 b1) = .ok i → exec i s = .next u → u.Running → step s = .next (tick u)

/-- The frame output (R297): the reply is the framebuffer, whose pixels read as before; dirty is cleared; nothing else
changes. -/
def Obligations.CurrentFrameOnlyClearsDirty : Prop :=
  ∀ s : State, ∃ fb t, hostCall .currentFrame s = .next (.frame fb, t) ∧ (∀ j, pixel fb j = pixel s.FB j) ∧
    t.dirty = false ∧ s = { t with dirty := s.dirty }
end

