-- ==== Sys2Proof/Laws/State.lean ====
section
/-! SUPPORT. One lemma per field per named update of the state, each true by rfl and a simp lemma, so that no later proof
unfolds a record update. -/

namespace Sys2Proof.Laws

open Sys2Proof.Machine

/-! ### setV -/

@[simp] theorem setV_mem (s : State) (x : Reg) (b : Byte) : (s.setV x b).mem = s.mem := rfl
@[simp] theorem setV_V (s : State) (x : Reg) (b : Byte) : (s.setV x b).V = s.V.set x.toNat b x.isLt := rfl
@[simp] theorem setV_I (s : State) (x : Reg) (b : Byte) : (s.setV x b).I = s.I := rfl
@[simp] theorem setV_pc (s : State) (x : Reg) (b : Byte) : (s.setV x b).pc = s.pc := rfl
@[simp] theorem setV_stack (s : State) (x : Reg) (b : Byte) : (s.setV x b).stack = s.stack := rfl
@[simp] theorem setV_SP (s : State) (x : Reg) (b : Byte) : (s.setV x b).SP = s.SP := rfl
@[simp] theorem setV_DT (s : State) (x : Reg) (b : Byte) : (s.setV x b).DT = s.DT := rfl
@[simp] theorem setV_ST (s : State) (x : Reg) (b : Byte) : (s.setV x b).ST = s.ST := rfl
@[simp] theorem setV_FB (s : State) (x : Reg) (b : Byte) : (s.setV x b).FB = s.FB := rfl
@[simp] theorem setV_dirty (s : State) (x : Reg) (b : Byte) : (s.setV x b).dirty = s.dirty := rfl
@[simp] theorem setV_key (s : State) (x : Reg) (b : Byte) : (s.setV x b).key = s.key := rfl
@[simp] theorem setV_status (s : State) (x : Reg) (b : Byte) : (s.setV x b).status = s.status := rfl
@[simp] theorem setV_drew (s : State) (x : Reg) (b : Byte) : (s.setV x b).drew = s.drew := rfl
@[simp] theorem setV_diag (s : State) (x : Reg) (b : Byte) : (s.setV x b).diag = s.diag := rfl
@[simp] theorem setV_draws (s : State) (x : Reg) (b : Byte) : (s.setV x b).draws = s.draws := rfl
@[simp] theorem setV_cfg (s : State) (x : Reg) (b : Byte) : (s.setV x b).cfg = s.cfg := rfl

/-! ### setFlag -/

@[simp] theorem setFlag_mem (s : State) (f : Byte) : (s.setFlag f).mem = s.mem := rfl
@[simp] theorem setFlag_I (s : State) (f : Byte) : (s.setFlag f).I = s.I := rfl
@[simp] theorem setFlag_pc (s : State) (f : Byte) : (s.setFlag f).pc = s.pc := rfl
@[simp] theorem setFlag_stack (s : State) (f : Byte) : (s.setFlag f).stack = s.stack := rfl
@[simp] theorem setFlag_SP (s : State) (f : Byte) : (s.setFlag f).SP = s.SP := rfl
@[simp] theorem setFlag_DT (s : State) (f : Byte) : (s.setFlag f).DT = s.DT := rfl
@[simp] theorem setFlag_ST (s : State) (f : Byte) : (s.setFlag f).ST = s.ST := rfl
@[simp] theorem setFlag_FB (s : State) (f : Byte) : (s.setFlag f).FB = s.FB := rfl
@[simp] theorem setFlag_dirty (s : State) (f : Byte) : (s.setFlag f).dirty = s.dirty := rfl
@[simp] theorem setFlag_key (s : State) (f : Byte) : (s.setFlag f).key = s.key := rfl
@[simp] theorem setFlag_status (s : State) (f : Byte) : (s.setFlag f).status = s.status := rfl
@[simp] theorem setFlag_drew (s : State) (f : Byte) : (s.setFlag f).drew = s.drew := rfl
@[simp] theorem setFlag_diag (s : State) (f : Byte) : (s.setFlag f).diag = s.diag := rfl
@[simp] theorem setFlag_draws (s : State) (f : Byte) : (s.setFlag f).draws = s.draws := rfl
@[simp] theorem setFlag_cfg (s : State) (f : Byte) : (s.setFlag f).cfg = s.cfg := rfl

/-! ### setI -/

@[simp] theorem setI_mem (s : State) (w : Word) : (s.setI w).mem = s.mem := rfl
@[simp] theorem setI_V (s : State) (w : Word) : (s.setI w).V = s.V := rfl
@[simp] theorem setI_I (s : State) (w : Word) : (s.setI w).I = w := rfl
@[simp] theorem setI_pc (s : State) (w : Word) : (s.setI w).pc = s.pc := rfl
@[simp] theorem setI_stack (s : State) (w : Word) : (s.setI w).stack = s.stack := rfl
@[simp] theorem setI_SP (s : State) (w : Word) : (s.setI w).SP = s.SP := rfl
@[simp] theorem setI_DT (s : State) (w : Word) : (s.setI w).DT = s.DT := rfl
@[simp] theorem setI_ST (s : State) (w : Word) : (s.setI w).ST = s.ST := rfl
@[simp] theorem setI_FB (s : State) (w : Word) : (s.setI w).FB = s.FB := rfl
@[simp] theorem setI_dirty (s : State) (w : Word) : (s.setI w).dirty = s.dirty := rfl
@[simp] theorem setI_key (s : State) (w : Word) : (s.setI w).key = s.key := rfl
@[simp] theorem setI_status (s : State) (w : Word) : (s.setI w).status = s.status := rfl
@[simp] theorem setI_drew (s : State) (w : Word) : (s.setI w).drew = s.drew := rfl
@[simp] theorem setI_diag (s : State) (w : Word) : (s.setI w).diag = s.diag := rfl
@[simp] theorem setI_draws (s : State) (w : Word) : (s.setI w).draws = s.draws := rfl
@[simp] theorem setI_cfg (s : State) (w : Word) : (s.setI w).cfg = s.cfg := rfl

/-! ### setPc -/

@[simp] theorem setPc_mem (s : State) (w : Word) : (s.setPc w).mem = s.mem := rfl
@[simp] theorem setPc_V (s : State) (w : Word) : (s.setPc w).V = s.V := rfl
@[simp] theorem setPc_I (s : State) (w : Word) : (s.setPc w).I = s.I := rfl
@[simp] theorem setPc_pc (s : State) (w : Word) : (s.setPc w).pc = w := rfl
@[simp] theorem setPc_stack (s : State) (w : Word) : (s.setPc w).stack = s.stack := rfl
@[simp] theorem setPc_SP (s : State) (w : Word) : (s.setPc w).SP = s.SP := rfl
@[simp] theorem setPc_DT (s : State) (w : Word) : (s.setPc w).DT = s.DT := rfl
@[simp] theorem setPc_ST (s : State) (w : Word) : (s.setPc w).ST = s.ST := rfl
@[simp] theorem setPc_FB (s : State) (w : Word) : (s.setPc w).FB = s.FB := rfl
@[simp] theorem setPc_dirty (s : State) (w : Word) : (s.setPc w).dirty = s.dirty := rfl
@[simp] theorem setPc_key (s : State) (w : Word) : (s.setPc w).key = s.key := rfl
@[simp] theorem setPc_status (s : State) (w : Word) : (s.setPc w).status = s.status := rfl
@[simp] theorem setPc_drew (s : State) (w : Word) : (s.setPc w).drew = s.drew := rfl
@[simp] theorem setPc_diag (s : State) (w : Word) : (s.setPc w).diag = s.diag := rfl
@[simp] theorem setPc_draws (s : State) (w : Word) : (s.setPc w).draws = s.draws := rfl
@[simp] theorem setPc_cfg (s : State) (w : Word) : (s.setPc w).cfg = s.cfg := rfl

/-! ### setDT -/

@[simp] theorem setDT_mem (s : State) (b : Byte) : (s.setDT b).mem = s.mem := rfl
@[simp] theorem setDT_V (s : State) (b : Byte) : (s.setDT b).V = s.V := rfl
@[simp] theorem setDT_I (s : State) (b : Byte) : (s.setDT b).I = s.I := rfl
@[simp] theorem setDT_pc (s : State) (b : Byte) : (s.setDT b).pc = s.pc := rfl
@[simp] theorem setDT_stack (s : State) (b : Byte) : (s.setDT b).stack = s.stack := rfl
@[simp] theorem setDT_SP (s : State) (b : Byte) : (s.setDT b).SP = s.SP := rfl
@[simp] theorem setDT_DT (s : State) (b : Byte) : (s.setDT b).DT = b := rfl
@[simp] theorem setDT_ST (s : State) (b : Byte) : (s.setDT b).ST = s.ST := rfl
@[simp] theorem setDT_FB (s : State) (b : Byte) : (s.setDT b).FB = s.FB := rfl
@[simp] theorem setDT_dirty (s : State) (b : Byte) : (s.setDT b).dirty = s.dirty := rfl
@[simp] theorem setDT_key (s : State) (b : Byte) : (s.setDT b).key = s.key := rfl
@[simp] theorem setDT_status (s : State) (b : Byte) : (s.setDT b).status = s.status := rfl
@[simp] theorem setDT_drew (s : State) (b : Byte) : (s.setDT b).drew = s.drew := rfl
@[simp] theorem setDT_diag (s : State) (b : Byte) : (s.setDT b).diag = s.diag := rfl
@[simp] theorem setDT_draws (s : State) (b : Byte) : (s.setDT b).draws = s.draws := rfl
@[simp] theorem setDT_cfg (s : State) (b : Byte) : (s.setDT b).cfg = s.cfg := rfl

/-! ### setST -/

@[simp] theorem setST_mem (s : State) (b : Byte) : (s.setST b).mem = s.mem := rfl
@[simp] theorem setST_V (s : State) (b : Byte) : (s.setST b).V = s.V := rfl
@[simp] theorem setST_I (s : State) (b : Byte) : (s.setST b).I = s.I := rfl
@[simp] theorem setST_pc (s : State) (b : Byte) : (s.setST b).pc = s.pc := rfl
@[simp] theorem setST_stack (s : State) (b : Byte) : (s.setST b).stack = s.stack := rfl
@[simp] theorem setST_SP (s : State) (b : Byte) : (s.setST b).SP = s.SP := rfl
@[simp] theorem setST_DT (s : State) (b : Byte) : (s.setST b).DT = s.DT := rfl
@[simp] theorem setST_ST (s : State) (b : Byte) : (s.setST b).ST = b := rfl
@[simp] theorem setST_FB (s : State) (b : Byte) : (s.setST b).FB = s.FB := rfl
@[simp] theorem setST_dirty (s : State) (b : Byte) : (s.setST b).dirty = s.dirty := rfl
@[simp] theorem setST_key (s : State) (b : Byte) : (s.setST b).key = s.key := rfl
@[simp] theorem setST_status (s : State) (b : Byte) : (s.setST b).status = s.status := rfl
@[simp] theorem setST_drew (s : State) (b : Byte) : (s.setST b).drew = s.drew := rfl
@[simp] theorem setST_diag (s : State) (b : Byte) : (s.setST b).diag = s.diag := rfl
@[simp] theorem setST_draws (s : State) (b : Byte) : (s.setST b).draws = s.draws := rfl
@[simp] theorem setST_cfg (s : State) (b : Byte) : (s.setST b).cfg = s.cfg := rfl

/-! ### advance -/

@[simp] theorem advance_mem (s : State) : s.advance.mem = s.mem := rfl
@[simp] theorem advance_V (s : State) : s.advance.V = s.V := rfl
@[simp] theorem advance_I (s : State) : s.advance.I = s.I := rfl
@[simp] theorem advance_pc (s : State) : s.advance.pc = s.pc + 2#16 := rfl
@[simp] theorem advance_stack (s : State) : s.advance.stack = s.stack := rfl
@[simp] theorem advance_SP (s : State) : s.advance.SP = s.SP := rfl
@[simp] theorem advance_DT (s : State) : s.advance.DT = s.DT := rfl
@[simp] theorem advance_ST (s : State) : s.advance.ST = s.ST := rfl
@[simp] theorem advance_FB (s : State) : s.advance.FB = s.FB := rfl
@[simp] theorem advance_dirty (s : State) : s.advance.dirty = s.dirty := rfl
@[simp] theorem advance_key (s : State) : s.advance.key = s.key := rfl
@[simp] theorem advance_status (s : State) : s.advance.status = s.status := rfl
@[simp] theorem advance_drew (s : State) : s.advance.drew = s.drew := rfl
@[simp] theorem advance_diag (s : State) : s.advance.diag = s.diag := rfl
@[simp] theorem advance_draws (s : State) : s.advance.draws = s.draws := rfl
@[simp] theorem advance_cfg (s : State) : s.advance.cfg = s.cfg := rfl

/-! ### skipIf -/

@[simp] theorem skipIf_mem (s : State) (c : Bool) : (s.skipIf c).mem = s.mem := rfl
@[simp] theorem skipIf_V (s : State) (c : Bool) : (s.skipIf c).V = s.V := rfl
@[simp] theorem skipIf_I (s : State) (c : Bool) : (s.skipIf c).I = s.I := rfl
@[simp] theorem skipIf_pc (s : State) (c : Bool) : (s.skipIf c).pc = if c then s.pc + 4#16 else s.pc + 2#16 := rfl
@[simp] theorem skipIf_stack (s : State) (c : Bool) : (s.skipIf c).stack = s.stack := rfl
@[simp] theorem skipIf_SP (s : State) (c : Bool) : (s.skipIf c).SP = s.SP := rfl
@[simp] theorem skipIf_DT (s : State) (c : Bool) : (s.skipIf c).DT = s.DT := rfl
@[simp] theorem skipIf_ST (s : State) (c : Bool) : (s.skipIf c).ST = s.ST := rfl
@[simp] theorem skipIf_FB (s : State) (c : Bool) : (s.skipIf c).FB = s.FB := rfl
@[simp] theorem skipIf_dirty (s : State) (c : Bool) : (s.skipIf c).dirty = s.dirty := rfl
@[simp] theorem skipIf_key (s : State) (c : Bool) : (s.skipIf c).key = s.key := rfl
@[simp] theorem skipIf_status (s : State) (c : Bool) : (s.skipIf c).status = s.status := rfl
@[simp] theorem skipIf_drew (s : State) (c : Bool) : (s.skipIf c).drew = s.drew := rfl
@[simp] theorem skipIf_diag (s : State) (c : Bool) : (s.skipIf c).diag = s.diag := rfl
@[simp] theorem skipIf_draws (s : State) (c : Bool) : (s.skipIf c).draws = s.draws := rfl
@[simp] theorem skipIf_cfg (s : State) (c : Bool) : (s.skipIf c).cfg = s.cfg := rfl

/-! ### present -/

@[simp] theorem present_mem (s : State) (fb : Framebuffer) : (s.present fb).mem = s.mem := rfl
@[simp] theorem present_V (s : State) (fb : Framebuffer) : (s.present fb).V = s.V := rfl
@[simp] theorem present_I (s : State) (fb : Framebuffer) : (s.present fb).I = s.I := rfl
@[simp] theorem present_pc (s : State) (fb : Framebuffer) : (s.present fb).pc = s.pc := rfl
@[simp] theorem present_stack (s : State) (fb : Framebuffer) : (s.present fb).stack = s.stack := rfl
@[simp] theorem present_SP (s : State) (fb : Framebuffer) : (s.present fb).SP = s.SP := rfl
@[simp] theorem present_DT (s : State) (fb : Framebuffer) : (s.present fb).DT = s.DT := rfl
@[simp] theorem present_ST (s : State) (fb : Framebuffer) : (s.present fb).ST = s.ST := rfl
@[simp] theorem present_FB (s : State) (fb : Framebuffer) : (s.present fb).FB = fb := rfl
@[simp] theorem present_dirty (s : State) (fb : Framebuffer) : (s.present fb).dirty = true := rfl
@[simp] theorem present_key (s : State) (fb : Framebuffer) : (s.present fb).key = s.key := rfl
@[simp] theorem present_status (s : State) (fb : Framebuffer) : (s.present fb).status = s.status := rfl
@[simp] theorem present_drew (s : State) (fb : Framebuffer) : (s.present fb).drew = true := rfl
@[simp] theorem present_diag (s : State) (fb : Framebuffer) : (s.present fb).diag = s.diag := rfl
@[simp] theorem present_draws (s : State) (fb : Framebuffer) : (s.present fb).draws = s.draws := rfl
@[simp] theorem present_cfg (s : State) (fb : Framebuffer) : (s.present fb).cfg = s.cfg := rfl

/-! ### takeFault -/

@[simp] theorem takeFault_mem (s : State) (c : FaultCause) (op : Option Word) : (takeFault c op s).mem = s.mem := rfl
@[simp] theorem takeFault_V (s : State) (c : FaultCause) (op : Option Word) : (takeFault c op s).V = s.V := rfl
@[simp] theorem takeFault_I (s : State) (c : FaultCause) (op : Option Word) : (takeFault c op s).I = s.I := rfl
@[simp] theorem takeFault_pc (s : State) (c : FaultCause) (op : Option Word) : (takeFault c op s).pc = s.pc := rfl
@[simp] theorem takeFault_stack (s : State) (c : FaultCause) (op : Option Word) : (takeFault c op s).stack = s.stack := rfl
@[simp] theorem takeFault_SP (s : State) (c : FaultCause) (op : Option Word) : (takeFault c op s).SP = s.SP := rfl
@[simp] theorem takeFault_DT (s : State) (c : FaultCause) (op : Option Word) : (takeFault c op s).DT = s.DT := rfl
@[simp] theorem takeFault_ST (s : State) (c : FaultCause) (op : Option Word) : (takeFault c op s).ST = s.ST := rfl
@[simp] theorem takeFault_FB (s : State) (c : FaultCause) (op : Option Word) : (takeFault c op s).FB = s.FB := rfl
@[simp] theorem takeFault_dirty (s : State) (c : FaultCause) (op : Option Word) : (takeFault c op s).dirty = s.dirty := rfl
@[simp] theorem takeFault_key (s : State) (c : FaultCause) (op : Option Word) : (takeFault c op s).key = s.key := rfl
@[simp] theorem takeFault_status (s : State) (c : FaultCause) (op : Option Word) : (takeFault c op s).status = .faulted { cause := c, pc := s.pc, op := op } := rfl
@[simp] theorem takeFault_drew (s : State) (c : FaultCause) (op : Option Word) : (takeFault c op s).drew = s.drew := rfl
@[simp] theorem takeFault_diag (s : State) (c : FaultCause) (op : Option Word) : (takeFault c op s).diag = s.diag := rfl
@[simp] theorem takeFault_draws (s : State) (c : FaultCause) (op : Option Word) : (takeFault c op s).draws = s.draws := rfl
@[simp] theorem takeFault_cfg (s : State) (c : FaultCause) (op : Option Word) : (takeFault c op s).cfg = s.cfg := rfl

/-! ### beginStep -/

@[simp] theorem beginStep_mem (s : State) : (beginStep s).mem = s.mem := rfl
@[simp] theorem beginStep_V (s : State) : (beginStep s).V = s.V := rfl
@[simp] theorem beginStep_I (s : State) : (beginStep s).I = s.I := rfl
@[simp] theorem beginStep_pc (s : State) : (beginStep s).pc = s.pc := rfl
@[simp] theorem beginStep_stack (s : State) : (beginStep s).stack = s.stack := rfl
@[simp] theorem beginStep_SP (s : State) : (beginStep s).SP = s.SP := rfl
@[simp] theorem beginStep_DT (s : State) : (beginStep s).DT = s.DT := rfl
@[simp] theorem beginStep_ST (s : State) : (beginStep s).ST = s.ST := rfl
@[simp] theorem beginStep_FB (s : State) : (beginStep s).FB = s.FB := rfl
@[simp] theorem beginStep_dirty (s : State) : (beginStep s).dirty = s.dirty := rfl
@[simp] theorem beginStep_key (s : State) : (beginStep s).key = s.key := rfl
@[simp] theorem beginStep_status (s : State) : (beginStep s).status = s.status := rfl
@[simp] theorem beginStep_drew (s : State) : (beginStep s).drew = false := rfl
@[simp] theorem beginStep_diag (s : State) : (beginStep s).diag = none := rfl
@[simp] theorem beginStep_draws (s : State) : (beginStep s).draws = s.draws := rfl
@[simp] theorem beginStep_cfg (s : State) : (beginStep s).cfg = s.cfg := rfl

/-! ### tick -/

@[simp] theorem tick_mem (s : State) : (tick s).mem = s.mem := rfl
@[simp] theorem tick_V (s : State) : (tick s).V = s.V := rfl
@[simp] theorem tick_I (s : State) : (tick s).I = s.I := rfl
@[simp] theorem tick_pc (s : State) : (tick s).pc = s.pc := rfl
@[simp] theorem tick_stack (s : State) : (tick s).stack = s.stack := rfl
@[simp] theorem tick_SP (s : State) : (tick s).SP = s.SP := rfl
@[simp] theorem tick_DT (s : State) : (tick s).DT = if s.DT = 0x00#8 then s.DT else s.DT - 1#8 := rfl
@[simp] theorem tick_ST (s : State) : (tick s).ST = if s.ST = 0x00#8 then s.ST else s.ST - 1#8 := rfl
@[simp] theorem tick_FB (s : State) : (tick s).FB = s.FB := rfl
@[simp] theorem tick_dirty (s : State) : (tick s).dirty = s.dirty := rfl
@[simp] theorem tick_key (s : State) : (tick s).key = s.key := rfl
@[simp] theorem tick_status (s : State) : (tick s).status = s.status := rfl
@[simp] theorem tick_drew (s : State) : (tick s).drew = s.drew := rfl
@[simp] theorem tick_diag (s : State) : (tick s).diag = s.diag := rfl
@[simp] theorem tick_draws (s : State) : (tick s).draws = s.draws := rfl
@[simp] theorem tick_cfg (s : State) : (tick s).cfg = s.cfg := rfl

/-! ### Registers and bytes read through updates that touch neither -/

@[simp] theorem byteAt_setV (s : State) (x : Reg) (b : Byte) (a : Nat) : (s.setV x b).byteAt a = s.byteAt a := rfl
@[simp] theorem byteAt_setFlag (s : State) (f : Byte) (a : Nat) : (s.setFlag f).byteAt a = s.byteAt a := rfl
@[simp] theorem getV_setI (s : State) (w : Word) (r : Reg) : (s.setI w).getV r = s.getV r := rfl
@[simp] theorem byteAt_setI (s : State) (w : Word) (a : Nat) : (s.setI w).byteAt a = s.byteAt a := rfl
@[simp] theorem getV_setPc (s : State) (w : Word) (r : Reg) : (s.setPc w).getV r = s.getV r := rfl
@[simp] theorem byteAt_setPc (s : State) (w : Word) (a : Nat) : (s.setPc w).byteAt a = s.byteAt a := rfl
@[simp] theorem getV_setDT (s : State) (b : Byte) (r : Reg) : (s.setDT b).getV r = s.getV r := rfl
@[simp] theorem byteAt_setDT (s : State) (b : Byte) (a : Nat) : (s.setDT b).byteAt a = s.byteAt a := rfl
@[simp] theorem getV_setST (s : State) (b : Byte) (r : Reg) : (s.setST b).getV r = s.getV r := rfl
@[simp] theorem byteAt_setST (s : State) (b : Byte) (a : Nat) : (s.setST b).byteAt a = s.byteAt a := rfl
@[simp] theorem getV_advance (s : State) (r : Reg) : s.advance.getV r = s.getV r := rfl
@[simp] theorem byteAt_advance (s : State) (a : Nat) : s.advance.byteAt a = s.byteAt a := rfl
@[simp] theorem getV_skipIf (s : State) (c : Bool) (r : Reg) : (s.skipIf c).getV r = s.getV r := rfl
@[simp] theorem byteAt_skipIf (s : State) (c : Bool) (a : Nat) : (s.skipIf c).byteAt a = s.byteAt a := rfl
@[simp] theorem getV_present (s : State) (fb : Framebuffer) (r : Reg) : (s.present fb).getV r = s.getV r := rfl
@[simp] theorem byteAt_present (s : State) (fb : Framebuffer) (a : Nat) : (s.present fb).byteAt a = s.byteAt a := rfl
@[simp] theorem getV_takeFault (s : State) (c : FaultCause) (op : Option Word) (r : Reg) : (takeFault c op s).getV r = s.getV r := rfl
@[simp] theorem byteAt_takeFault (s : State) (c : FaultCause) (op : Option Word) (a : Nat) : (takeFault c op s).byteAt a = s.byteAt a := rfl
@[simp] theorem getV_beginStep (s : State) (r : Reg) : (beginStep s).getV r = s.getV r := rfl
@[simp] theorem byteAt_beginStep (s : State) (a : Nat) : (beginStep s).byteAt a = s.byteAt a := rfl
@[simp] theorem getV_tick (s : State) (r : Reg) : (tick s).getV r = s.getV r := rfl
@[simp] theorem byteAt_tick (s : State) (a : Nat) : (tick s).byteAt a = s.byteAt a := rfl

/-! ### setCollision -/

@[simp] theorem setCollision_mem (s : State) (hit : Bool) : (s.setCollision hit).mem = s.mem := by cases hit <;> rfl
@[simp] theorem setCollision_I (s : State) (hit : Bool) : (s.setCollision hit).I = s.I := by cases hit <;> rfl
@[simp] theorem setCollision_pc (s : State) (hit : Bool) : (s.setCollision hit).pc = s.pc := by cases hit <;> rfl
@[simp] theorem setCollision_stack (s : State) (hit : Bool) : (s.setCollision hit).stack = s.stack := by cases hit <;> rfl
@[simp] theorem setCollision_SP (s : State) (hit : Bool) : (s.setCollision hit).SP = s.SP := by cases hit <;> rfl
@[simp] theorem setCollision_DT (s : State) (hit : Bool) : (s.setCollision hit).DT = s.DT := by cases hit <;> rfl
@[simp] theorem setCollision_ST (s : State) (hit : Bool) : (s.setCollision hit).ST = s.ST := by cases hit <;> rfl
@[simp] theorem setCollision_FB (s : State) (hit : Bool) : (s.setCollision hit).FB = s.FB := by cases hit <;> rfl
@[simp] theorem setCollision_dirty (s : State) (hit : Bool) : (s.setCollision hit).dirty = s.dirty := by cases hit <;> rfl
@[simp] theorem setCollision_key (s : State) (hit : Bool) : (s.setCollision hit).key = s.key := by cases hit <;> rfl
@[simp] theorem setCollision_status (s : State) (hit : Bool) : (s.setCollision hit).status = s.status := by cases hit <;> rfl
@[simp] theorem setCollision_drew (s : State) (hit : Bool) : (s.setCollision hit).drew = s.drew := by cases hit <;> rfl
@[simp] theorem setCollision_diag (s : State) (hit : Bool) : (s.setCollision hit).diag = s.diag := by cases hit <;> rfl
@[simp] theorem setCollision_draws (s : State) (hit : Bool) : (s.setCollision hit).draws = s.draws := by cases hit <;> rfl
@[simp] theorem setCollision_cfg (s : State) (hit : Bool) : (s.setCollision hit).cfg = s.cfg := by cases hit <;> rfl
@[simp] theorem byteAt_setCollision (s : State) (hit : Bool) (a : Nat) : (s.setCollision hit).byteAt a = s.byteAt a := by cases hit <;> rfl

/-! ### setVs -/

@[simp] theorem setVs_mem (s : State) (x : Nat) (bs : List Byte) : (s.setVs x bs).mem = s.mem := by
  induction bs generalizing s x with
  | nil => rfl
  | cons b bs ih => exact ih _ _
@[simp] theorem setVs_I (s : State) (x : Nat) (bs : List Byte) : (s.setVs x bs).I = s.I := by
  induction bs generalizing s x with
  | nil => rfl
  | cons b bs ih => exact ih _ _
@[simp] theorem setVs_pc (s : State) (x : Nat) (bs : List Byte) : (s.setVs x bs).pc = s.pc := by
  induction bs generalizing s x with
  | nil => rfl
  | cons b bs ih => exact ih _ _
@[simp] theorem setVs_stack (s : State) (x : Nat) (bs : List Byte) : (s.setVs x bs).stack = s.stack := by
  induction bs generalizing s x with
  | nil => rfl
  | cons b bs ih => exact ih _ _
@[simp] theorem setVs_SP (s : State) (x : Nat) (bs : List Byte) : (s.setVs x bs).SP = s.SP := by
  induction bs generalizing s x with
  | nil => rfl
  | cons b bs ih => exact ih _ _
@[simp] theorem setVs_DT (s : State) (x : Nat) (bs : List Byte) : (s.setVs x bs).DT = s.DT := by
  induction bs generalizing s x with
  | nil => rfl
  | cons b bs ih => exact ih _ _
@[simp] theorem setVs_ST (s : State) (x : Nat) (bs : List Byte) : (s.setVs x bs).ST = s.ST := by
  induction bs generalizing s x with
  | nil => rfl
  | cons b bs ih => exact ih _ _
@[simp] theorem setVs_FB (s : State) (x : Nat) (bs : List Byte) : (s.setVs x bs).FB = s.FB := by
  induction bs generalizing s x with
  | nil => rfl
  | cons b bs ih => exact ih _ _
@[simp] theorem setVs_dirty (s : State) (x : Nat) (bs : List Byte) : (s.setVs x bs).dirty = s.dirty := by
  induction bs generalizing s x with
  | nil => rfl
  | cons b bs ih => exact ih _ _
@[simp] theorem setVs_key (s : State) (x : Nat) (bs : List Byte) : (s.setVs x bs).key = s.key := by
  induction bs generalizing s x with
  | nil => rfl
  | cons b bs ih => exact ih _ _
@[simp] theorem setVs_status (s : State) (x : Nat) (bs : List Byte) : (s.setVs x bs).status = s.status := by
  induction bs generalizing s x with
  | nil => rfl
  | cons b bs ih => exact ih _ _
@[simp] theorem setVs_drew (s : State) (x : Nat) (bs : List Byte) : (s.setVs x bs).drew = s.drew := by
  induction bs generalizing s x with
  | nil => rfl
  | cons b bs ih => exact ih _ _
@[simp] theorem setVs_diag (s : State) (x : Nat) (bs : List Byte) : (s.setVs x bs).diag = s.diag := by
  induction bs generalizing s x with
  | nil => rfl
  | cons b bs ih => exact ih _ _
@[simp] theorem setVs_draws (s : State) (x : Nat) (bs : List Byte) : (s.setVs x bs).draws = s.draws := by
  induction bs generalizing s x with
  | nil => rfl
  | cons b bs ih => exact ih _ _
@[simp] theorem setVs_cfg (s : State) (x : Nat) (bs : List Byte) : (s.setVs x bs).cfg = s.cfg := by
  induction bs generalizing s x with
  | nil => rfl
  | cons b bs ih => exact ih _ _
@[simp] theorem byteAt_setVs (s : State) (x : Nat) (bs : List Byte) (a : Nat) : (s.setVs x bs).byteAt a = s.byteAt a := by
  simp [State.byteAt]

end Sys2Proof.Laws
end

