-- ==== Sys2Proof/Laws/Memory.lean ====
section
/-! SUPPORT. The memory laws: reading after a store, the canonical form, and what each access can answer (spec R64 to
R67, R72, R74, R286). -/

namespace Sys2Proof.Laws

open Sys2Proof.Machine

/-! ## One cell -/

theorem lookup_erase (m : Memory) (a b : Nat) : (m.erase a).lookup b = if b = a then none else m.lookup b := by
  induction m with
  | nil => simp [Memory.erase, Memory.lookup]
  | cons c m ih =>
    by_cases hc : c.1 = a
    · by_cases hb : b = a
      · simpa [Memory.erase, hc, hb] using ih
      · have : ¬ a = b := fun e => hb e.symm
        simpa [Memory.erase, Memory.lookup, hc, hb, this] using ih
    · by_cases hb : c.1 = b
      · have : ¬ b = a := fun e => hc (hb.trans e)
        simp [Memory.erase, Memory.lookup, hb, this]
      · simpa [Memory.erase, Memory.lookup, hc, hb] using ih

theorem lookup_insert (m : Memory) (a b : Nat) (v : Byte) (h : m.lookup a = none) :
    (m.insert a v).lookup b = if b = a then some v else m.lookup b := by
  induction m with
  | nil => simp [Memory.insert, Memory.lookup, @eq_comm _ a b]
  | cons c m ih =>
    have hca : ¬ c.1 = a := fun e => by simp [Memory.lookup, e] at h
    have hm : Memory.lookup m a = none := by simpa [Memory.lookup, hca] using h
    by_cases ha : a < c.1
    · by_cases hb : b = a
      · simp [Memory.insert, Memory.lookup, ha, hb]
      · have : ¬ a = b := fun e => hb e.symm
        simp [Memory.insert, Memory.lookup, ha, hb, this]
    · by_cases hb : c.1 = b
      · have hba : ¬ b = a := fun e => hca (hb.trans e)
        rw [if_neg hba, Memory.insert, if_neg ha]
        simp [Memory.lookup, hb]
      · simpa [Memory.insert, Memory.lookup, ha, hb] using ih hm

/-- A store changes exactly the one cell (R74). -/
theorem byteAt_store (g : Glyphs) (m : Memory) (a b : Nat) (v : Byte) :
    (m.store g a v).byteAt g b = if b = a then v else m.byteAt g b := by
  have he := lookup_erase m a
  unfold Memory.store
  by_cases hv : v = unlistedByte g a
  · by_cases hb : b = a <;> simp [hv, Memory.byteAt, he, hb]
  · have hn : (m.erase a).lookup a = none := by simp [he]
    by_cases hb : b = a <;> simp [hv, Memory.byteAt, lookup_insert _ _ _ _ hn, he, hb]

/-! ## The canonical form -/

theorem risesFrom_weaken {m : Memory} {low low' : Nat} (h : low' ≤ low) (hm : m.risesFrom low = true) :
    m.risesFrom low' = true := by
  cases m with
  | nil => rfl
  | cons c m => simp [Memory.risesFrom] at hm ⊢; exact ⟨by omega, hm.2⟩

theorem risesFrom_erase {m : Memory} {low : Nat} (a : Nat) (hm : m.risesFrom low = true) :
    (m.erase a).risesFrom low = true := by
  induction m generalizing low with
  | nil => rfl
  | cons c m ih =>
    simp [Memory.risesFrom] at hm
    unfold Memory.erase
    split
    · exact risesFrom_weaken (by omega) (ih hm.2)
    · simp [Memory.risesFrom, hm.1, ih hm.2]

theorem risesFrom_insert {m : Memory} {low a : Nat} (v : Byte) (hm : m.risesFrom low = true) (hl : low ≤ a)
    (hn : m.lookup a = none) : (m.insert a v).risesFrom low = true := by
  induction m generalizing low with
  | nil => simp [Memory.insert, Memory.risesFrom, hl]
  | cons c m ih =>
    simp [Memory.risesFrom] at hm
    have hca : ¬ c.1 = a := fun e => by simp [Memory.lookup, e] at hn
    have hm' : Memory.lookup m a = none := by simpa [Memory.lookup, hca] using hn
    unfold Memory.insert
    split
    · rename_i h
      simp only [Memory.risesFrom, Bool.and_eq_true, decide_eq_true_eq]
      exact ⟨hl, by omega, hm.2⟩
    · simp only [Memory.risesFrom, Bool.and_eq_true, decide_eq_true_eq]
      exact ⟨hm.1, ih hm.2 (by omega) hm'⟩

theorem mem_erase {m : Memory} {a : Nat} {c : Host.Cell} (h : c ∈ m.erase a) : c ∈ m := by
  induction m with
  | nil => exact h
  | cons d m ih =>
    unfold Memory.erase at h
    split at h
    · exact List.mem_cons_of_mem _ (ih h)
    · rcases List.mem_cons.1 h with h | h
      · exact h ▸ List.mem_cons_self
      · exact List.mem_cons_of_mem _ (ih h)

theorem mem_insert {m : Memory} {a : Nat} {v : Byte} {c : Host.Cell} (h : c ∈ m.insert a v) : c = (a, v) ∨ c ∈ m := by
  induction m with
  | nil => simpa [Memory.insert] using h
  | cons d m ih =>
    unfold Memory.insert at h
    split at h
    · simpa using h
    · rcases List.mem_cons.1 h with h | h
      · exact .inr (h ▸ List.mem_cons_self)
      · exact (ih h).imp id (List.mem_cons_of_mem _)

/-- A store at an address of memory keeps the canonical form. -/
theorem wf_store {g : Glyphs} {m : Memory} {a : Nat} (v : Byte) (ha : a < 4096) (hm : m.wf g = true) :
    (m.store g a v).wf g = true := by
  simp only [Memory.wf, Bool.and_eq_true, List.all_eq_true, memSize] at hm ⊢
  obtain ⟨hr, hall⟩ := hm
  unfold Memory.store
  split
  · exact ⟨risesFrom_erase a hr, fun c hc => hall c (mem_erase hc)⟩
  · rename_i hv
    refine ⟨risesFrom_insert v (risesFrom_erase a hr) (by omega) (by simp [lookup_erase]), fun c hc => ?_⟩
    rcases mem_insert hc with rfl | hc
    · exact ⟨decide_eq_true ha, decide_eq_true hv⟩
    · exact hall c (mem_erase hc)

theorem wf_nil (g : Glyphs) : Memory.wf g [] = true := rfl

/-! ## What an access answers -/

theorem memRead_ok {s : State} {access : Access} {a : Nat} (h : a < 4096) : memRead s access a = .ok (s.byteAt a) := by
  have : ¬ 4096 ≤ a := by omega
  simp [memRead, this]

theorem memRead_error {s : State} {access : Access} {a : Nat} (h : 4096 ≤ a) :
    memRead s access a = .error (.memOutOfRange a access) := by
  simp [memRead, h]

/-- A block read that stays inside memory gives the bytes in order. -/
theorem memReadAll_ok (s : State) (access : Access) (base n : Nat) (h : n = 0 ∨ base + n ≤ 4096) :
    memReadAll s access base n = .ok ((List.range n).map fun k => s.byteAt (base + k)) := by
  induction n generalizing base with
  | zero => rfl
  | succ n ih =>
    unfold memReadAll
    rw [memRead_ok (by omega), ih (base + 1) (by omega)]
    simp only [List.range_succ_eq_map, List.map_cons, List.map_map, Nat.add_zero]
    congr 2
    apply List.map_congr_left
    intro k _
    simp [Nat.add_assoc, Nat.add_comm 1 k]

/-- A block read that leaves memory reports the first address past the end (R286). -/
theorem memReadAll_error (s : State) (access : Access) (base n : Nat) (hn : n ≠ 0) (h : 4096 < base + n) :
    memReadAll s access base n = .error (.memOutOfRange (max base 4096) access) := by
  induction n generalizing base with
  | zero => exact absurd rfl hn
  | succ n ih =>
    unfold memReadAll
    by_cases hb : 4096 ≤ base
    · rw [memRead_error hb, max_eq_left hb]
    · rw [memRead_ok (by omega), ih (base + 1) (by omega) (by omega)]
      have : max (base + 1) 4096 = max base 4096 := by omega
      simp [this]

theorem memWrite_ok {g : Glyphs} {m : Memory} {a : Nat} (v : Byte) (h : a < 4096) (h' : 80 ≤ a) :
    memWrite g m a v = .ok (m.store g a v) := by
  have : ¬ a < 80 := by omega
  simp [memWrite, h, this]

/-- Everything a block write can do: if it answers, every address was writable, the bytes are in place, every other byte
reads as before, and the canonical form is kept. -/
theorem memWriteAll_next {g : Glyphs} {vs : List Byte} {m m' : Memory} {base : Nat}
    (h : memWriteAll g m base vs = .ok m') :
    (vs ≠ [] → 80 ≤ base ∧ base + vs.length ≤ 4096) ∧
    (∀ a, m'.byteAt g a = if h : base ≤ a ∧ a < base + vs.length then vs[a - base] else m.byteAt g a) ∧
    (m.wf g = true → m'.wf g = true) := by
  induction vs generalizing m base with
  | nil => cases h; exact ⟨fun h => absurd rfl h, fun a => by rw [dif_neg (by simp)], id⟩
  | cons v vs ih =>
    unfold memWriteAll at h
    by_cases h1 : 4096 ≤ base
    · simp [memWrite, h1] at h
    by_cases h2 : base < 80
    · simp [memWrite, h1, h2] at h
    rw [memWrite_ok v (by omega) (by omega)] at h
    obtain ⟨i1, i2, i3⟩ := ih h
    refine ⟨fun _ => ⟨by omega, ?_⟩, fun a => ?_, fun hw => i3 (wf_store v (by omega) hw)⟩
    · cases vs with
      | nil => simp; omega
      | cons w ws => have := (i1 (by simp)).2; simp at this ⊢; omega
    · rw [i2 a, byteAt_store]
      by_cases ha : a = base
      · subst ha; simp
      · by_cases hr : base + 1 ≤ a ∧ a < base + 1 + vs.length
        · have hr' : base ≤ a ∧ a < base + (v :: vs).length := by simp; omega
          rw [dif_pos hr, dif_pos hr']
          have : a - base = (a - (base + 1)) + 1 := by omega
          simp [this]
        · have hr' : ¬ (base ≤ a ∧ a < base + (v :: vs).length) := by simp; omega
          rw [dif_neg hr, dif_neg hr', if_neg ha]

/-- A block write inside the writable range answers (R61). -/
theorem memWriteAll_ok (g : Glyphs) (vs : List Byte) (m : Memory) (base : Nat) (h : 80 ≤ base)
    (h' : vs = [] ∨ base + vs.length ≤ 4096) : ∃ m', memWriteAll g m base vs = .ok m' := by
  induction vs generalizing m base with
  | nil => exact ⟨m, rfl⟩
  | cons v vs ih =>
    simp at h'
    unfold memWriteAll
    rw [memWrite_ok v (by omega) h]
    exact ih _ _ (by omega) (.inr (by omega))

/-- A block write whose first address is in the glyph table reports that address (R67, R286). -/
theorem memWriteAll_glyph (g : Glyphs) (m : Memory) (base : Nat) (vs : List Byte) (hv : vs ≠ []) (h : base < 80) :
    memWriteAll g m base vs = .error (.glyphWrite base) := by
  cases vs with
  | nil => exact absurd rfl hv
  | cons v vs =>
    have : ¬ 4096 ≤ base := by omega
    simp [memWriteAll, memWrite, this, h]

/-- A block write that leaves memory reports the first address past the end (R67, R286). -/
theorem memWriteAll_range (g : Glyphs) (vs : List Byte) (m : Memory) (base : Nat) (hv : vs ≠ []) (h : 80 ≤ base)
    (h' : 4096 < base + vs.length) : memWriteAll g m base vs = .error (.memOutOfRange (max base 4096) .write) := by
  induction vs generalizing m base with
  | nil => exact absurd rfl hv
  | cons v vs ih =>
    unfold memWriteAll
    by_cases hb : 4096 ≤ base
    · simp [memWrite, hb]
    · rw [memWrite_ok v (by omega) h]
      have hvs : vs ≠ [] := by rintro rfl; simp at h'; omega
      have := ih (m.store g base v) (base + 1) hvs (by omega) (by simp at h'; omega)
      rw [show max (base + 1) 4096 = max base 4096 by omega] at this
      exact this

/-- The fetch of two bytes inside memory (R69, R104). -/
theorem fetchWord_ok {s : State} (h : s.pc.toNat + 1 < 4096) :
    fetchWord s = .ok (joinBytes (s.byteAt s.pc.toNat) (s.byteAt (s.pc.toNat + 1))) := by
  unfold fetchWord
  rw [memRead_ok (by omega), memRead_ok h]

/-- The fetch that leaves memory (R72). -/
theorem fetchWord_error {s : State} (h : 4096 ≤ s.pc.toNat + 1) :
    fetchWord s = .error (.memOutOfRange (max s.pc.toNat 4096) .fetch) := by
  unfold fetchWord
  by_cases h' : 4096 ≤ s.pc.toNat
  · rw [memRead_error h', max_eq_left h']
  · rw [memRead_ok (by omega), memRead_error h, show max s.pc.toNat 4096 = s.pc.toNat + 1 by omega]

/-- The fetch reads pc and memory only. -/
@[simp] theorem fetchWord_beginStep (s : State) : fetchWord (beginStep s) = fetchWord s := rfl

end Sys2Proof.Laws
end

