-- ==== Sys2Proof/Laws/Registers.lean ====
section
/-! SUPPORT. Reading a register after writing one (spec R21, R22), the flag writes, and the register block of FX65. -/

namespace Sys2Proof.Laws

open Sys2Proof.Machine

/-- A register read after a register write: the written value at that register, the old value elsewhere. -/
theorem getV_setV (s : State) (x y : Reg) (b : Byte) : (s.setV x b).getV y = if y = x then b else s.getV y := by
  unfold State.getV State.setV
  rw [Vector.getElem_set]
  by_cases h : y = x
  · simp [h]
  · have : x.toNat ≠ y.toNat := fun e => h (BitVec.eq_of_toNat_eq e.symm)
    simp [h, this]

@[simp] theorem getV_setV_same (s : State) (x : Reg) (b : Byte) : (s.setV x b).getV x = b := by simp [getV_setV]

theorem getV_setV_other (s : State) {x y : Reg} (b : Byte) (h : y ≠ x) : (s.setV x b).getV y = s.getV y := by
  simp [getV_setV, h]

/-- Writing VF is writing register 15 (R22). -/
theorem getV_setFlag (s : State) (y : Reg) (f : Byte) : (s.setFlag f).getV y = if y = flagReg then f else s.getV y :=
  getV_setV s flagReg y f

/-- VF after the collision write: 1 on a hit, unchanged without one (R241). -/
theorem getV_setCollision (s : State) (y : Reg) (hit : Bool) :
    (s.setCollision hit).getV y = if hit = true ∧ y = flagReg then 0x01#8 else s.getV y := by
  cases hit <;> simp [State.setCollision, getV_setFlag]

/-- Two register files that read alike are equal. -/
theorem regFile_ext (v w : RegFile) (h : ∀ r : Reg, v[r.toNat]'(r.isLt) = w[r.toNat]'(r.isLt)) : v = w := by
  apply Vector.ext
  intro k hk
  have := h (BitVec.ofNat 4 k)
  simpa [Nat.mod_eq_of_lt hk] using this

/-- The block of registers that FX65 writes: register `x + k` gets the k-th byte, every other register keeps its value. -/
theorem getV_setVs (bs : List Byte) (s : State) (x : Nat) (hx : x + bs.length ≤ 16) (r : Reg) :
    (s.setVs x bs).getV r = if h : x ≤ r.toNat ∧ r.toNat < x + bs.length then bs[r.toNat - x] else s.getV r := by
  induction bs generalizing s x with
  | nil =>
    have : ¬ (x ≤ r.toNat ∧ r.toNat < x + ([] : List Byte).length) := by simp
    rw [dif_neg this]; rfl
  | cons b bs ih =>
    simp only [List.length_cons] at hx
    have hr := r.isLt
    show ((s.setV (BitVec.ofNat 4 x) b).setVs (x + 1) bs).getV r = _
    rw [ih _ _ (by omega), getV_setV]
    have hxr : r = BitVec.ofNat 4 x ↔ r.toNat = x := by
      rw [← BitVec.toNat_inj, BitVec.toNat_ofNat, Nat.mod_eq_of_lt (by omega)]
    by_cases h0 : r.toNat = x
    · have h1 : ¬ (x + 1 ≤ r.toNat ∧ r.toNat < x + 1 + bs.length) := by omega
      have h2 : x ≤ r.toNat ∧ r.toNat < x + (b :: bs).length := by simp; omega
      rw [dif_neg h1, if_pos (hxr.2 h0), dif_pos h2]
      simp [h0]
    · rw [if_neg (fun e => h0 (hxr.1 e))]
      by_cases h1 : x + 1 ≤ r.toNat ∧ r.toNat < x + 1 + bs.length
      · have h2 : x ≤ r.toNat ∧ r.toNat < x + (b :: bs).length := by simp; omega
        rw [dif_pos h1, dif_pos h2]
        have : r.toNat - x = (r.toNat - (x + 1)) + 1 := by omega
        simp [this]
      · have h2 : ¬ (x ≤ r.toNat ∧ r.toNat < x + (b :: bs).length) := by simp; omega
        rw [dif_neg h1, dif_neg h2]

/-- How many bytes the block of registers has. -/
@[simp] theorem regBytesFrom_length (s : State) (x n : Nat) : (regBytesFrom s x n).length = n := by
  induction n generalizing x with
  | zero => rfl
  | succ n ih => simp [regBytesFrom, ih]

/-- The k-th byte of the block is the register `x + k` (R214). -/
theorem regBytesFrom_get (s : State) (n x k : Nat) (h : k < (regBytesFrom s x n).length) :
    (regBytesFrom s x n)[k] = s.getV (BitVec.ofNat 4 (x + k)) := by
  induction n generalizing x k with
  | zero => simp at h
  | succ n ih =>
    cases k with
    | zero => rfl
    | succ k =>
      simp only [regBytesFrom, List.getElem_cons_succ]
      rw [ih, show x + 1 + k = x + (k + 1) by omega]

@[simp] theorem regBytes_length (s : State) (x : Reg) : (regBytes s x).length = x.toNat + 1 := by simp [regBytes, regCount]

theorem regBytes_get (s : State) (x : Reg) (k : Nat) (h : k < (regBytes s x).length) :
    (regBytes s x)[k] = s.getV (BitVec.ofNat 4 k) :=
  (regBytesFrom_get s (regCount x) 0 k h).trans (by rw [Nat.zero_add])

end Sys2Proof.Laws
end

