-- ==== Sys2Proof/Laws/Display.lean ====
section
/-! SUPPORT. The framebuffer laws: reading a pixel after flipping one, the targets of a sprite, and what drawing a list of
targets can answer (spec R34, R241 to R245). -/

namespace Sys2Proof.Laws

open Sys2Proof.Machine

/-- A pixel read after a flip: changed at that index, unchanged elsewhere. -/
theorem pixel_flipPixel (fb : Framebuffer) (j k : Nat) (hj : j < 2048) :
    pixel (flipPixel fb j) k = (pixel fb k ^^ decide (k = j)) := by
  unfold pixel flipPixel
  by_cases hk : k < 2048
  · rw [dif_pos hk, dif_pos hj, dif_pos hk, Vector.getElem_set]
    by_cases hrow : j / 64 = k / 64
    · rw [if_pos hrow]
      have hm : k % 64 < 64 := Nat.mod_lt _ (by decide)
      simp only [hrow, BitVec.getLsbD_xor, BitVec.getLsbD_shiftLeft, BitVec.getLsbD_one, hm, decide_true, Bool.true_and]
      congr 1
      by_cases he : k = j
      · subst he; simp
      · have : ¬ (k % 64 - j % 64 = 0 ∧ ¬ k % 64 < j % 64) := by omega
        simp only [he, decide_false]
        by_cases h1 : k % 64 < j % 64
        · simp [h1]
        · have h2 : ¬ k % 64 - j % 64 = 0 := fun h => this ⟨h, h1⟩
          simp [h2]
    · rw [if_neg hrow]
      have : ¬ k = j := by rintro rfl; exact hrow rfl
      simp [this]
  · have : ¬ k = j := by omega
    rw [dif_neg hk, dif_neg hk]; simp [this]

@[simp] theorem pixel_clearFrame (j : Nat) : pixel clearFrame j = false := by
  unfold pixel clearFrame
  split
  · rw [Vector.getElem_replicate]; simp
  · rfl

/-- A pixel index at or past 2048 reads 0. -/
theorem pixel_out (fb : Framebuffer) {j : Nat} (h : 2048 ≤ j) : pixel fb j = false := by
  unfold pixel; rw [dif_neg (by omega)]

/-! ## The targets of a sprite -/

/-- The targets of a row: the set bits at the columns scanned (R242, R243). -/
theorem mem_rowTargets (vx vy : Byte) (row : Nat) (b : Byte) (col n j : Nat) :
    j ∈ rowTargets vx vy row b col n ↔
      ∃ c, col ≤ c ∧ c < col + n ∧ spriteBit b c = true ∧ j = pixelIndex vx vy row c := by
  induction n generalizing col with
  | zero => simp only [rowTargets, List.not_mem_nil, false_iff]; rintro ⟨c, h1, h2, -⟩; omega
  | succ n ih =>
    have key : (j ∈ rowTargets vx vy row b (col + 1) n) ↔
        ∃ c, col + 1 ≤ c ∧ c < col + (n + 1) ∧ spriteBit b c = true ∧ j = pixelIndex vx vy row c := by
      rw [ih, show col + 1 + n = col + (n + 1) by omega]
    unfold rowTargets
    by_cases hb : spriteBit b col = true
    · rw [if_pos hb, List.mem_cons, key]
      constructor
      · rintro (rfl | ⟨c, h1, h2, h3⟩)
        · exact ⟨col, by omega, by omega, hb, rfl⟩
        · exact ⟨c, by omega, h2, h3⟩
      · rintro ⟨c, h1, h2, h3, h4⟩
        by_cases hc : c = col
        · exact .inl (hc ▸ h4)
        · exact .inr ⟨c, by omega, h2, h3, h4⟩
    · rw [if_neg hb, key]
      constructor
      · rintro ⟨c, h1, h2, h3⟩; exact ⟨c, by omega, h2, h3⟩
      · rintro ⟨c, h1, h2, h3, h4⟩
        have hc : c ≠ col := fun e => hb (e ▸ h3)
        exact ⟨c, by omega, h2, h3, h4⟩

/-- The targets of a sprite: the set bits of its rows (R241, R242). -/
theorem mem_spriteTargets (vx vy : Byte) (row : Nat) (bs : List Byte) (j : Nat) :
    j ∈ spriteTargets vx vy row bs ↔
      ∃ r c, ∃ h : r < bs.length, c < 8 ∧ spriteBit bs[r] c = true ∧ j = pixelIndex vx vy (row + r) c := by
  induction bs generalizing row with
  | nil => simp [spriteTargets]
  | cons b bs ih =>
    rw [spriteTargets, List.mem_append, mem_rowTargets, ih]
    constructor
    · rintro (⟨c, -, h2, h3, h4⟩ | ⟨r, c, hr, hc, h3, h4⟩)
      · exact ⟨0, c, by simp, by omega, h3, h4⟩
      · exact ⟨r + 1, c, by simpa using hr, hc, h3, by rw [h4]; congr 1; omega⟩
    · rintro ⟨r, c, hr, hc, h3, h4⟩
      cases r with
      | zero => exact .inl ⟨c, by omega, by omega, h3, h4⟩
      | succ r => exact .inr ⟨r, c, by simpa using hr, hc, h3, by rw [h4]; congr 1; omega⟩

theorem rowTargets_nodup (vx vy : Byte) (row : Nat) (b : Byte) (col n : Nat) : (rowTargets vx vy row b col n).Nodup := by
  induction n generalizing col with
  | zero => exact List.nodup_nil
  | succ n ih =>
    unfold rowTargets
    split
    · refine List.nodup_cons.2 ⟨fun h => ?_, ih _⟩
      obtain ⟨c, h1, -, -, h4⟩ := (mem_rowTargets ..).1 h
      unfold pixelIndex at h4; omega
    · exact ih _

/-- No two bits of a sprite have one target (R245, 1). -/
theorem spriteTargets_nodup (vx vy : Byte) (row : Nat) (bs : List Byte) : (spriteTargets vx vy row bs).Nodup := by
  induction bs generalizing row with
  | nil => exact List.nodup_nil
  | cons b bs ih =>
    refine List.nodup_append.2 ⟨rowTargets_nodup .., ih _, fun a ha a' ha' e => ?_⟩
    obtain ⟨c, -, h2, -, h4⟩ := (mem_rowTargets ..).1 ha
    obtain ⟨r, c', -, hc', -, h4'⟩ := (mem_spriteTargets ..).1 ha'
    subst e
    simp only [pixelIndex, fbWidth] at h4 h4'
    omega

/-! ## Drawing a list of targets -/

/-- What drawing can answer with every target in range or Clip: each in-range target is flipped, a target already lit is a
collision, and nothing else changes (R241, R244). -/
theorem plotAll_next (oob : DrawOob) (l : List Nat) (c : Canvas) (hn : l.Nodup)
    (ho : oob = .clip ∨ ∀ j ∈ l, j < 2048) :
    ∃ c', plotAll oob c l = .ok c' ∧ (∀ k, pixel c'.fb k = (pixel c.fb k ^^ decide (k ∈ l ∧ k < 2048))) ∧
      (c'.hit = true ↔ c.hit = true ∨ ∃ j ∈ l, pixel c.fb j = true) := by
  induction l generalizing c with
  | nil => exact ⟨c, rfl, by simp, by simp⟩
  | cons j l ih =>
    obtain ⟨hj, hl⟩ := List.nodup_cons.1 hn
    have ho' : oob = .clip ∨ ∀ j ∈ l, j < 2048 := ho.imp id fun h k hk => h k (List.mem_cons_of_mem _ hk)
    by_cases hr : 2048 ≤ j
    · have hclip : oob = .clip := ho.resolve_right fun h => by have := h j List.mem_cons_self; omega
      obtain ⟨c', h1, h2, h3⟩ := ih c hl ho'
      refine ⟨c', by subst hclip; simpa [plotAll, plot, hr] using h1, fun k => ?_, ?_⟩
      · rw [h2 k]; congr 2
        simp only [List.mem_cons, eq_iff_iff]
        constructor
        · rintro ⟨a, b⟩; exact ⟨.inr a, b⟩
        · rintro ⟨rfl | a, b⟩
          · omega
          · exact ⟨a, b⟩
      · rw [h3]; simp [pixel_out c.fb hr]
    · have hr' : j < 2048 := by omega
      obtain ⟨c', h1, h2, h3⟩ := ih ⟨flipPixel c.fb j, c.hit || pixel c.fb j⟩ hl ho'
      refine ⟨c', by simpa [plotAll, plot, hr] using h1, fun k => ?_, ?_⟩
      · rw [h2 k, pixel_flipPixel _ _ _ hr', Bool.xor_assoc]; congr 1
        by_cases hk : k = j
        · subst hk; simp [hj, hr']
        · simp [hk]
      · rw [h3]
        simp only [Bool.or_eq_true, List.mem_cons, exists_eq_or_imp]
        have : (∃ k ∈ l, pixel (flipPixel c.fb j) k = true) ↔ ∃ k ∈ l, pixel c.fb k = true := by
          refine exists_congr fun k => and_congr_right fun hk => ?_
          have : ¬ k = j := fun e => hj (e ▸ hk)
          rw [pixel_flipPixel _ _ _ hr']; simp [this]
        rw [this, or_assoc]

/-- Drawing under DRAW_OOB = Fault with an out-of-range target reports the first one (R244, R286). -/
theorem plotAll_fault (l : List Nat) (c : Canvas) (j : Nat) (h : l.find? (fun k => decide (2048 ≤ k)) = some j) :
    plotAll .fault c l = .error (.drawOutOfRange j) := by
  induction l generalizing c with
  | nil => simp at h
  | cons k l ih =>
    by_cases hk : 2048 ≤ k
    · simp [List.find?, hk] at h; subst h; simp [plotAll, plot, hk]
    · simp [List.find?, hk] at h; simpa [plotAll, plot, hk] using ih _ h

end Sys2Proof.Laws
end

