-- ==== Sys2Proof/Laws/Encoding.lean ====
section
/-! SUPPORT. The fields of a packed word (spec R91, R92) as numbers, and the facts about words that the decoder's proofs
cite. -/

namespace Sys2Proof.Laws

open Sys2Proof

/-- Every instruction is well formed: its operand types are its fields (R92). -/
theorem wellFormed_all (i : Instr) : i.wellFormed = true := by
  cases i <;>
    simp only [Instr.wellFormed, Instr.operands, List.all_cons, List.all_nil, Field.admits, Field.width, Bool.and_true,
      Bool.and_eq_true, decide_eq_true_eq, BitVec.isLt, and_self]

/-! ## Concatenation and extraction as numbers -/

/-- `hi ++ lo` as a number (R9). -/
theorem append_toNat {m n : Nat} (hi : BitVec m) (lo : BitVec n) : (hi ++ lo).toNat = hi.toNat * 2 ^ n + lo.toNat := by
  rw [BitVec.toNat_append, Nat.shiftLeft_eq, Nat.mul_comm, ← Nat.two_pow_add_eq_or_of_lt lo.isLt]

/-- The joined word as a number: the high byte times 256 plus the low byte (R9). -/
theorem joinBytes_toNat (hi lo : Byte) : (joinBytes hi lo).toNat = hi.toNat * 256 + lo.toNat := append_toNat hi lo

theorem packA_toNat (c : Nibble) (a : Addr12) : (packA c a).toNat = c.toNat * 4096 + a.toNat := append_toNat c a

theorem packXK_toNat (c : Nibble) (x : Reg) (kk : Byte) :
    (packXK c x kk).toNat = c.toNat * 4096 + x.toNat * 256 + kk.toNat := by
  have h1 : (packXK c x kk).toNat = (c ++ x).toNat * 2 ^ 8 + kk.toNat := append_toNat (c ++ x) kk
  rw [h1, append_toNat, Nat.add_mul]; norm_num [Nat.mul_assoc]

theorem packXYN_toNat (c : Nibble) (x y : Reg) (n : Nibble) :
    (packXYN c x y n).toNat = c.toNat * 4096 + x.toNat * 256 + y.toNat * 16 + n.toNat := by
  have h1 : (packXYN c x y n).toNat = (c ++ x ++ y).toNat * 2 ^ 4 + n.toNat := append_toNat (c ++ x ++ y) n
  rw [h1, append_toNat, append_toNat, Nat.add_mul, Nat.add_mul, Nat.add_mul]; norm_num [Nat.mul_assoc]

theorem opGroup_toNat (op : Word) : (opGroup op).toNat = op.toNat / 4096 := by
  have := op.isLt
  simp only [opGroup, BitVec.extractLsb'_toNat, Nat.shiftRight_eq_div_pow]
  omega

theorem opX_toNat (op : Word) : (opX op).toNat = op.toNat / 256 % 16 := by
  simp only [opX, BitVec.extractLsb'_toNat, Nat.shiftRight_eq_div_pow]

theorem opY_toNat (op : Word) : (opY op).toNat = op.toNat / 16 % 16 := by
  simp only [opY, BitVec.extractLsb'_toNat, Nat.shiftRight_eq_div_pow]

theorem opN_toNat (op : Word) : (opN op).toNat = op.toNat % 16 := by
  simp [opN]

theorem opKK_toNat (op : Word) : (opKK op).toNat = op.toNat % 256 := by
  simp [opKK]

theorem opNNN_toNat (op : Word) : (opNNN op).toNat = op.toNat % 4096 := by
  simp only [opNNN, BitVec.extractLsb'_toNat, Nat.shiftRight_eq_div_pow]
  omega

theorem highByte_toNat (op : Word) : (highByte op).toNat = op.toNat / 256 := by
  have := op.isLt
  simp only [highByte, BitVec.extractLsb'_toNat, Nat.shiftRight_eq_div_pow]
  omega

theorem lowByte_toNat (op : Word) : (lowByte op).toNat = op.toNat % 256 := by
  simp only [lowByte, BitVec.extractLsb'_toNat, Nat.shiftRight_eq_div_pow]
  omega

/-! ## The fields of a packed word -/

@[simp] theorem opGroup_packA (c : Nibble) (a : Addr12) : opGroup (packA c a) = c := by
  apply BitVec.eq_of_toNat_eq; have := a.isLt; rw [opGroup_toNat, packA_toNat]; omega

@[simp] theorem opNNN_packA (c : Nibble) (a : Addr12) : opNNN (packA c a) = a := by
  apply BitVec.eq_of_toNat_eq; have := a.isLt; rw [opNNN_toNat, packA_toNat]; omega

@[simp] theorem opGroup_packXK (c : Nibble) (x : Reg) (kk : Byte) : opGroup (packXK c x kk) = c := by
  apply BitVec.eq_of_toNat_eq; have := x.isLt; have := kk.isLt; rw [opGroup_toNat, packXK_toNat]; omega

@[simp] theorem opX_packXK (c : Nibble) (x : Reg) (kk : Byte) : opX (packXK c x kk) = x := by
  apply BitVec.eq_of_toNat_eq; have := x.isLt; have := kk.isLt; rw [opX_toNat, packXK_toNat]; omega

@[simp] theorem opKK_packXK (c : Nibble) (x : Reg) (kk : Byte) : opKK (packXK c x kk) = kk := by
  apply BitVec.eq_of_toNat_eq; have := kk.isLt; rw [opKK_toNat, packXK_toNat]; omega

@[simp] theorem opGroup_packXYN (c : Nibble) (x y : Reg) (n : Nibble) : opGroup (packXYN c x y n) = c := by
  apply BitVec.eq_of_toNat_eq; have := x.isLt; have := y.isLt; have := n.isLt; rw [opGroup_toNat, packXYN_toNat]; omega

@[simp] theorem opX_packXYN (c : Nibble) (x y : Reg) (n : Nibble) : opX (packXYN c x y n) = x := by
  apply BitVec.eq_of_toNat_eq; have := x.isLt; have := y.isLt; have := n.isLt; rw [opX_toNat, packXYN_toNat]; omega

@[simp] theorem opY_packXYN (c : Nibble) (x y : Reg) (n : Nibble) : opY (packXYN c x y n) = y := by
  apply BitVec.eq_of_toNat_eq; have := y.isLt; have := n.isLt; rw [opY_toNat, packXYN_toNat]; omega

@[simp] theorem opN_packXYN (c : Nibble) (x y : Reg) (n : Nibble) : opN (packXYN c x y n) = n := by
  apply BitVec.eq_of_toNat_eq; have := n.isLt; rw [opN_toNat, packXYN_toNat]; omega

/-! ## A word written back from its fields -/

/-- Format A (R91). -/
theorem packA_fields (op : Word) : packA (opGroup op) (opNNN op) = op := by
  apply BitVec.eq_of_toNat_eq; rw [packA_toNat, opGroup_toNat, opNNN_toNat]; omega

/-- Formats XK and XS (R91). -/
theorem packXK_fields (op : Word) : packXK (opGroup op) (opX op) (opKK op) = op := by
  apply BitVec.eq_of_toNat_eq; rw [packXK_toNat, opGroup_toNat, opX_toNat, opKK_toNat]; omega

/-- Formats XY and XYN (R91). -/
theorem packXYN_fields (op : Word) : packXYN (opGroup op) (opX op) (opY op) (opN op) = op := by
  apply BitVec.eq_of_toNat_eq; rw [packXYN_toNat, opGroup_toNat, opX_toNat, opY_toNat, opN_toNat]; omega

/-- Two bytes joined and taken apart again (R69). -/
@[simp] theorem joinBytes_high_low (op : Word) : joinBytes (highByte op) (lowByte op) = op := by
  apply BitVec.eq_of_toNat_eq; rw [joinBytes_toNat, highByte_toNat, lowByte_toNat]; omega

end Sys2Proof.Laws
end

