-- ==== Sys2Proof/Laws/Faults.lean ====
section
/-! SUPPORT. What each shared operation that may fault can answer (spec R121, R123, R145, R213, R214), and what an
instruction can do to a state: take a fault from the state at step entry, or complete (R282, R285). -/

namespace Sys2Proof.Laws

open Sys2Proof.Machine

@[simp] theorem orFault_ok (i : Instr) (s t : State) : orFault i s (.ok t) = .next t := rfl

@[simp] theorem orFault_error (i : Instr) (s : State) (c : FaultCause) :
    orFault i s (.error c) = .next (takeFault c (some (encode i)) s) := rfl

/-! ## Stack and keys -/

theorem push_ok {s : State} (h : s.SP.val < 16) :
    s.push = .ok { s with stack := s.stack.set s.SP.val s.pc h, SP := ⟨s.SP.val + 1, by omega⟩ } := by
  unfold State.push; rw [dif_pos h]

theorem push_full {s : State} (h : s.SP.val = 16) : s.push = .error (.stackOverflow 16) := by
  unfold State.push; rw [dif_neg (by omega), h]

theorem pop_ok {s : State} (h : 0 < s.SP.val) :
    s.pop = .ok (s.stack[s.SP.val - 1]'(by have := s.SP.isLt; omega),
      { s with SP := ⟨s.SP.val - 1, by have := s.SP.isLt; omega⟩ }) := by
  unfold State.pop; rw [dif_neg (by omega)]

theorem pop_empty {s : State} (h : s.SP.val = 0) : s.pop = .error (.stackUnderflow 0) := by
  unfold State.pop; rw [dif_pos h, h]

theorem keyHeld_ok {s : State} {k : Byte} (h : k.toNat < 16) : s.keyHeld k = .ok s.key[k.toNat] := by
  unfold State.keyHeld; rw [dif_pos h]

theorem keyHeld_error {s : State} {k : Byte} (h : 15 < k.toNat) : s.keyHeld k = .error (.keyIndexOutOfRange k) := by
  unfold State.keyHeld; rw [dif_neg (by omega)]

/-! ## Block stores -/

/-- Everything `storeBytes` can do: it changes memory only, at the addresses of the block only, all of them writable. -/
theorem storeBytes_next {s t : State} {base : Nat} {vs : List Byte} (h : storeBytes s base vs = .ok t) :
    (∃ m, t = { s with mem := m } ∧ (s.mem.wf s.cfg.glyphs = true → m.wf s.cfg.glyphs = true)) ∧
    (vs ≠ [] → 80 ≤ base ∧ base + vs.length ≤ 4096) ∧
    (∀ a, t.byteAt a = if h : base ≤ a ∧ a < base + vs.length then vs[a - base] else s.byteAt a) := by
  unfold storeBytes at h
  cases hm : memWriteAll s.cfg.glyphs s.mem base vs with
  | error c => rw [hm] at h; cases h
  | ok m =>
    rw [hm] at h; cases h
    obtain ⟨h1, h2, h3⟩ := memWriteAll_next hm
    exact ⟨⟨m, rfl, h3⟩, h1, h2⟩

theorem storeBytes_ok (s : State) (base : Nat) (vs : List Byte) (h : 80 ≤ base) (h' : vs = [] ∨ base + vs.length ≤ 4096) :
    ∃ t, storeBytes s base vs = .ok t := by
  obtain ⟨m, hm⟩ := memWriteAll_ok s.cfg.glyphs vs s.mem base h h'
  exact ⟨{ s with mem := m }, by simp [storeBytes, hm]⟩

theorem storeBytes_glyph (s : State) (base : Nat) (vs : List Byte) (hv : vs ≠ []) (h : base < 80) :
    storeBytes s base vs = .error (.glyphWrite base) := by
  simp [storeBytes, memWriteAll_glyph _ _ _ _ hv h]

theorem storeBytes_range (s : State) (base : Nat) (vs : List Byte) (hv : vs ≠ []) (h : 80 ≤ base)
    (h' : 4096 < base + vs.length) : storeBytes s base vs = .error (.memOutOfRange (max base 4096) .write) := by
  simp [storeBytes, memWriteAll_range _ _ _ _ hv h h']

/-! ## The classes that may fault, one equation for each way they end -/

theorem exec_00EE_ok {s : State} (h : 0 < s.SP.val) :
    exec .op00EE s = .next (({ s with SP := ⟨s.SP.val - 1, by have := s.SP.isLt; omega⟩ } : State).setPc
      (s.stack[s.SP.val - 1]'(by have := s.SP.isLt; omega) + 2#16)) := by
  simp only [exec, exec00EE, pop_ok h, orFault_ok]

theorem exec_00EE_empty {s : State} (h : s.SP.val = 0) :
    exec .op00EE s = .next (takeFault (.stackUnderflow 0) (some (encode .op00EE)) s) := by
  simp only [exec, exec00EE, pop_empty h, orFault_error]

theorem exec_2NNN_ok {s : State} (nnn : Addr12) (h : s.SP.val < 16) :
    exec (.op2NNN nnn) s = .next (({ s with stack := s.stack.set s.SP.val s.pc h, SP := ⟨s.SP.val + 1, by omega⟩ } :
      State).setPc (addrOperand nnn)) := by
  simp only [exec, exec2NNN, push_ok h, orFault_ok]

theorem exec_2NNN_full {s : State} (nnn : Addr12) (h : s.SP.val = 16) :
    exec (.op2NNN nnn) s = .next (takeFault (.stackOverflow 16) (some (encode (.op2NNN nnn))) s) := by
  simp only [exec, exec2NNN, push_full h, orFault_error]

theorem exec_EX9E_ok {s : State} {x : Reg} (h : (s.getV x).toNat < 16) :
    exec (.opEX9E x) s = .next (s.skipIf s.key[(s.getV x).toNat]) := by
  simp only [exec, execEX9E, keyHeld_ok h, orFault_ok]

theorem exec_EX9E_error {s : State} {x : Reg} (h : 15 < (s.getV x).toNat) :
    exec (.opEX9E x) s = .next (takeFault (.keyIndexOutOfRange (s.getV x)) (some (encode (.opEX9E x))) s) := by
  simp only [exec, execEX9E, keyHeld_error h, orFault_error]

theorem exec_EXA1_ok {s : State} {x : Reg} (h : (s.getV x).toNat < 16) :
    exec (.opEXA1 x) s = .next (s.skipIf (!s.key[(s.getV x).toNat])) := by
  simp only [exec, execEXA1, keyHeld_ok h, orFault_ok]

theorem exec_EXA1_error {s : State} {x : Reg} (h : 15 < (s.getV x).toNat) :
    exec (.opEXA1 x) s = .next (takeFault (.keyIndexOutOfRange (s.getV x)) (some (encode (.opEXA1 x))) s) := by
  simp only [exec, execEXA1, keyHeld_error h, orFault_error]

theorem exec_FX33_ok {s t : State} {x : Reg}
    (h : storeBytes s (effectiveAddress s 0) (decimalDigits (s.getV x)) = .ok t) : exec (.opFX33 x) s = .next t.advance := by
  simp only [exec, execFX33, storeFromI, h, orFault_ok]

theorem exec_FX33_error {s : State} {x : Reg} {c : FaultCause}
    (h : storeBytes s (effectiveAddress s 0) (decimalDigits (s.getV x)) = .error c) :
    exec (.opFX33 x) s = .next (takeFault c (some (encode (.opFX33 x))) s) := by
  simp only [exec, execFX33, storeFromI, h, orFault_error]

theorem exec_FX55_ok {s t : State} {x : Reg} (h : storeBytes s (effectiveAddress s 0) (regBytes s x) = .ok t) :
    exec (.opFX55 x) s = .next t.advance := by
  simp only [exec, execFX55, storeFromI, h, orFault_ok]

theorem exec_FX55_error {s : State} {x : Reg} {c : FaultCause}
    (h : storeBytes s (effectiveAddress s 0) (regBytes s x) = .error c) :
    exec (.opFX55 x) s = .next (takeFault c (some (encode (.opFX55 x))) s) := by
  simp only [exec, execFX55, storeFromI, h, orFault_error]

theorem exec_FX65_ok {s : State} {x : Reg} {bs : List Byte}
    (h : memReadAll s .read (effectiveAddress s 0) (regCount x) = .ok bs) :
    exec (.opFX65 x) s = .next (s.setVs 0 bs).advance := by
  simp only [exec, execFX65, h, orFault_ok]

theorem exec_FX65_error {s : State} {x : Reg} {c : FaultCause}
    (h : memReadAll s .read (effectiveAddress s 0) (regCount x) = .error c) :
    exec (.opFX65 x) s = .next (takeFault c (some (encode (.opFX65 x))) s) := by
  simp only [exec, execFX65, h, orFault_error]

theorem exec_DXYN_ok {s : State} {x y : Reg} {n : Nibble} {c : Canvas} (h : drawSprite x y n s = .ok c) :
    exec (.opDXYN x y n) s = .next ((s.setCollision c.hit).present c.fb).advance := by
  simp only [exec, execDXYN, h, orFault_ok]

theorem exec_DXYN_error {s : State} {x y : Reg} {n : Nibble} {c : FaultCause} (h : drawSprite x y n s = .error c) :
    exec (.opDXYN x y n) s = .next (takeFault c (some (encode (.opDXYN x y n))) s) := by
  simp only [exec, execDXYN, h, orFault_error]

/-! ## What an instruction can do -/

/-- A completed instruction leaves the run status, the keys, the parameters and the diagnostic alone. -/
structure Completes (s t : State) : Prop where
  status : t.status = s.status
  key : t.key = s.key
  cfg : t.cfg = s.cfg
  diag : t.diag = s.diag

/-- Everything an instruction can answer: a fault taken from the state it was given (R282), or a completed state. -/
theorem exec_cases (i : Instr) (s : State) :
    (∃ c, exec i s = .next (takeFault c (some (encode i)) s)) ∨ ∃ t, exec i s = .next t ∧ Completes s t := by
  cases i with
  | op00EE =>
    by_cases h : s.SP.val = 0
    · exact .inl ⟨_, exec_00EE_empty h⟩
    · exact .inr ⟨_, exec_00EE_ok (by omega), rfl, rfl, rfl, rfl⟩
  | op2NNN nnn =>
    by_cases h : s.SP.val < 16
    · exact .inr ⟨_, exec_2NNN_ok nnn h, rfl, rfl, rfl, rfl⟩
    · exact .inl ⟨_, exec_2NNN_full nnn (by omega)⟩
  | opEX9E x =>
    by_cases h : (s.getV x).toNat < 16
    · exact .inr ⟨_, exec_EX9E_ok h, rfl, rfl, rfl, rfl⟩
    · exact .inl ⟨_, exec_EX9E_error (by omega)⟩
  | opEXA1 x =>
    by_cases h : (s.getV x).toNat < 16
    · exact .inr ⟨_, exec_EXA1_ok h, rfl, rfl, rfl, rfl⟩
    · exact .inl ⟨_, exec_EXA1_error (by omega)⟩
  | opFX33 x =>
    cases h : storeBytes s (effectiveAddress s 0) (decimalDigits (s.getV x)) with
    | error c => exact .inl ⟨c, exec_FX33_error h⟩
    | ok t =>
      obtain ⟨⟨m, rfl, -⟩, -, -⟩ := storeBytes_next h
      exact .inr ⟨_, exec_FX33_ok h, rfl, rfl, rfl, rfl⟩
  | opFX55 x =>
    cases h : storeBytes s (effectiveAddress s 0) (regBytes s x) with
    | error c => exact .inl ⟨c, exec_FX55_error h⟩
    | ok t =>
      obtain ⟨⟨m, rfl, -⟩, -, -⟩ := storeBytes_next h
      exact .inr ⟨_, exec_FX55_ok h, rfl, rfl, rfl, rfl⟩
  | opFX65 x =>
    cases h : memReadAll s .read (effectiveAddress s 0) (regCount x) with
    | error c => exact .inl ⟨c, exec_FX65_error h⟩
    | ok bs => exact .inr ⟨_, exec_FX65_ok h, by simp, by simp, by simp, by simp⟩
  | opDXYN x y n =>
    cases h : drawSprite x y n s with
    | error c => exact .inl ⟨c, exec_DXYN_error h⟩
    | ok c => exact .inr ⟨_, exec_DXYN_ok h, by simp, by simp, by simp, by simp⟩
  | _ => exact .inr ⟨_, rfl, rfl, rfl, rfl, rfl⟩

/-- Every instruction answers a next state. -/
theorem exec_answers (i : Instr) (s : State) : ∃ t, exec i s = .next t := by
  obtain ⟨c, h⟩ | ⟨t, h, -⟩ := exec_cases i s
  · exact ⟨_, h⟩
  · exact ⟨t, h⟩

end Sys2Proof.Laws
end

