-- ==== Sys2Proof/Laws/PerInstr.lean ====
section
/-! SUPPORT. The per-instruction family EncodesRow: the encoded word of every instruction has the class digits of its row
of the opcode map (spec R94), stated and proved constructor by constructor. -/

namespace Sys2Proof.Laws.EncodesRow

/-- The row of the opcode map named after the instruction's class is the one whose match bits its word has: group by
number, and the sub-selector of formats Z, XY and XS (R91, R94). -/
def Statement (i : Instr) : Prop :=
  ∃ r ∈ opcodeMap, r.cls = i.cls ∧
    (encode i).toNat / 4096 = r.pattern.toNat / 4096 ∧
    (r.mask.toNat % 16 = 15 → (encode i).toNat % 16 = r.pattern.toNat % 16) ∧
    (r.mask.toNat % 256 = 255 → (encode i).toNat % 256 = r.pattern.toNat % 256)

/-- Format A. -/
theorem of_packA {r : OpcodeRow} {i : Instr} {c : Nibble} {a : Addr12} (hr : r ∈ opcodeMap) (hc : r.cls = i.cls)
    (he : encode i = packA c a) (hg : c.toNat = r.pattern.toNat / 4096) (hm : r.mask.toNat % 16 ≠ 15) : Statement i := by
  have := a.isLt
  refine ⟨r, hr, hc, ?_, fun h => absurd h hm, fun h => absurd (by omega) hm⟩
  rw [he, packA_toNat]; omega

/-- Format XK: every bit of the low byte is an operand. -/
theorem of_packXK {r : OpcodeRow} {i : Instr} {c : Nibble} {x : Reg} {kk : Byte} (hr : r ∈ opcodeMap) (hc : r.cls = i.cls)
    (he : encode i = packXK c x kk) (hg : c.toNat = r.pattern.toNat / 4096) (hm : r.mask.toNat % 16 ≠ 15) :
    Statement i := by
  have := x.isLt; have := kk.isLt
  refine ⟨r, hr, hc, ?_, fun h => absurd h hm, fun h => absurd (by omega) hm⟩
  rw [he, packXK_toNat]; omega

/-- Format XS: the low byte is the sub-selector. -/
theorem of_packXS {r : OpcodeRow} {i : Instr} {c : Nibble} {x : Reg} {sub : Byte} (hr : r ∈ opcodeMap)
    (hc : r.cls = i.cls) (he : encode i = packXK c x sub) (hg : c.toNat = r.pattern.toNat / 4096)
    (hs : sub.toNat = r.pattern.toNat % 256) : Statement i := by
  have := x.isLt; have := sub.isLt
  refine ⟨r, hr, hc, ?_, fun _ => ?_, fun _ => ?_⟩ <;> rw [he, packXK_toNat] <;> omega

/-- Formats XY and XYN: the low nibble is the sub-selector, or an operand. -/
theorem of_packXYN {r : OpcodeRow} {i : Instr} {c : Nibble} {x y : Reg} {n : Nibble} (hr : r ∈ opcodeMap)
    (hc : r.cls = i.cls) (he : encode i = packXYN c x y n) (hg : c.toNat = r.pattern.toNat / 4096)
    (hs : r.mask.toNat % 16 = 15 → n.toNat = r.pattern.toNat % 16) (hm : r.mask.toNat % 256 ≠ 255) : Statement i := by
  have := x.isLt; have := y.isLt; have := n.isLt
  refine ⟨r, hr, hc, ?_, fun h => ?_, fun h => absurd h hm⟩
  · rw [he, packXYN_toNat]; omega
  · have := hs h
    rw [he, packXYN_toNat]; omega

theorem op00E0 : Statement .op00E0 :=
  ⟨⟨"00E0", 0x00E0#16, 0xFFFF#16⟩, by decide, rfl, by decide, by decide, by decide⟩

theorem op00EE : Statement .op00EE :=
  ⟨⟨"00EE", 0x00EE#16, 0xFFFF#16⟩, by decide, rfl, by decide, by decide, by decide⟩

theorem op1NNN (nnn : Addr12) : Statement (.op1NNN nnn) :=
  of_packA (r := ⟨"1NNN", 0x1000#16, 0xF000#16⟩) (by decide) rfl rfl rfl (by decide)

theorem op2NNN (nnn : Addr12) : Statement (.op2NNN nnn) :=
  of_packA (r := ⟨"2NNN", 0x2000#16, 0xF000#16⟩) (by decide) rfl rfl rfl (by decide)

theorem op3XKK (x : Reg) (kk : Byte) : Statement (.op3XKK x kk) :=
  of_packXK (r := ⟨"3XKK", 0x3000#16, 0xF000#16⟩) (by decide) rfl rfl rfl (by decide)

theorem op4XKK (x : Reg) (kk : Byte) : Statement (.op4XKK x kk) :=
  of_packXK (r := ⟨"4XKK", 0x4000#16, 0xF000#16⟩) (by decide) rfl rfl rfl (by decide)

theorem op5XY0 (x : Reg) (y : Reg) : Statement (.op5XY0 x y) :=
  of_packXYN (r := ⟨"5XY0", 0x5000#16, 0xF00F#16⟩) (by decide) rfl rfl rfl (fun _ => rfl) (by decide)

theorem op6XKK (x : Reg) (kk : Byte) : Statement (.op6XKK x kk) :=
  of_packXK (r := ⟨"6XKK", 0x6000#16, 0xF000#16⟩) (by decide) rfl rfl rfl (by decide)

theorem op7XKK (x : Reg) (kk : Byte) : Statement (.op7XKK x kk) :=
  of_packXK (r := ⟨"7XKK", 0x7000#16, 0xF000#16⟩) (by decide) rfl rfl rfl (by decide)

theorem op8XY0 (x : Reg) (y : Reg) : Statement (.op8XY0 x y) :=
  of_packXYN (r := ⟨"8XY0", 0x8000#16, 0xF00F#16⟩) (by decide) rfl rfl rfl (fun _ => rfl) (by decide)

theorem op8XY1 (x : Reg) (y : Reg) : Statement (.op8XY1 x y) :=
  of_packXYN (r := ⟨"8XY1", 0x8001#16, 0xF00F#16⟩) (by decide) rfl rfl rfl (fun _ => rfl) (by decide)

theorem op8XY2 (x : Reg) (y : Reg) : Statement (.op8XY2 x y) :=
  of_packXYN (r := ⟨"8XY2", 0x8002#16, 0xF00F#16⟩) (by decide) rfl rfl rfl (fun _ => rfl) (by decide)

theorem op8XY3 (x : Reg) (y : Reg) : Statement (.op8XY3 x y) :=
  of_packXYN (r := ⟨"8XY3", 0x8003#16, 0xF00F#16⟩) (by decide) rfl rfl rfl (fun _ => rfl) (by decide)

theorem op8XY4 (x : Reg) (y : Reg) : Statement (.op8XY4 x y) :=
  of_packXYN (r := ⟨"8XY4", 0x8004#16, 0xF00F#16⟩) (by decide) rfl rfl rfl (fun _ => rfl) (by decide)

theorem op8XY5 (x : Reg) (y : Reg) : Statement (.op8XY5 x y) :=
  of_packXYN (r := ⟨"8XY5", 0x8005#16, 0xF00F#16⟩) (by decide) rfl rfl rfl (fun _ => rfl) (by decide)

theorem op8XY6 (x : Reg) (y : Reg) : Statement (.op8XY6 x y) :=
  of_packXYN (r := ⟨"8XY6", 0x8006#16, 0xF00F#16⟩) (by decide) rfl rfl rfl (fun _ => rfl) (by decide)

theorem op8XY7 (x : Reg) (y : Reg) : Statement (.op8XY7 x y) :=
  of_packXYN (r := ⟨"8XY7", 0x8007#16, 0xF00F#16⟩) (by decide) rfl rfl rfl (fun _ => rfl) (by decide)

theorem op8XYE (x : Reg) (y : Reg) : Statement (.op8XYE x y) :=
  of_packXYN (r := ⟨"8XYE", 0x800E#16, 0xF00F#16⟩) (by decide) rfl rfl rfl (fun _ => rfl) (by decide)

theorem op9XY0 (x : Reg) (y : Reg) : Statement (.op9XY0 x y) :=
  of_packXYN (r := ⟨"9XY0", 0x9000#16, 0xF00F#16⟩) (by decide) rfl rfl rfl (fun _ => rfl) (by decide)

theorem opANNN (nnn : Addr12) : Statement (.opANNN nnn) :=
  of_packA (r := ⟨"ANNN", 0xA000#16, 0xF000#16⟩) (by decide) rfl rfl rfl (by decide)

theorem opBNNN (nnn : Addr12) : Statement (.opBNNN nnn) :=
  of_packA (r := ⟨"BNNN", 0xB000#16, 0xF000#16⟩) (by decide) rfl rfl rfl (by decide)

theorem opCXKK (x : Reg) (kk : Byte) : Statement (.opCXKK x kk) :=
  of_packXK (r := ⟨"CXKK", 0xC000#16, 0xF000#16⟩) (by decide) rfl rfl rfl (by decide)

theorem opDXYN (x : Reg) (y : Reg) (n : Nibble) : Statement (.opDXYN x y n) :=
  of_packXYN (r := ⟨"DXYN", 0xD000#16, 0xF000#16⟩) (by decide) rfl rfl rfl (fun h => absurd h (by decide)) (by decide)

theorem opEX9E (x : Reg) : Statement (.opEX9E x) :=
  of_packXS (r := ⟨"EX9E", 0xE09E#16, 0xF0FF#16⟩) (by decide) rfl rfl rfl rfl

theorem opEXA1 (x : Reg) : Statement (.opEXA1 x) :=
  of_packXS (r := ⟨"EXA1", 0xE0A1#16, 0xF0FF#16⟩) (by decide) rfl rfl rfl rfl

theorem opFX07 (x : Reg) : Statement (.opFX07 x) :=
  of_packXS (r := ⟨"FX07", 0xF007#16, 0xF0FF#16⟩) (by decide) rfl rfl rfl rfl

theorem opFX15 (x : Reg) : Statement (.opFX15 x) :=
  of_packXS (r := ⟨"FX15", 0xF015#16, 0xF0FF#16⟩) (by decide) rfl rfl rfl rfl

theorem opFX18 (x : Reg) : Statement (.opFX18 x) :=
  of_packXS (r := ⟨"FX18", 0xF018#16, 0xF0FF#16⟩) (by decide) rfl rfl rfl rfl

theorem opFX1E (x : Reg) : Statement (.opFX1E x) :=
  of_packXS (r := ⟨"FX1E", 0xF01E#16, 0xF0FF#16⟩) (by decide) rfl rfl rfl rfl

theorem opFX29 (x : Reg) : Statement (.opFX29 x) :=
  of_packXS (r := ⟨"FX29", 0xF029#16, 0xF0FF#16⟩) (by decide) rfl rfl rfl rfl

theorem opFX33 (x : Reg) : Statement (.opFX33 x) :=
  of_packXS (r := ⟨"FX33", 0xF033#16, 0xF0FF#16⟩) (by decide) rfl rfl rfl rfl

theorem opFX55 (x : Reg) : Statement (.opFX55 x) :=
  of_packXS (r := ⟨"FX55", 0xF055#16, 0xF0FF#16⟩) (by decide) rfl rfl rfl rfl

theorem opFX65 (x : Reg) : Statement (.opFX65 x) :=
  of_packXS (r := ⟨"FX65", 0xF065#16, 0xF0FF#16⟩) (by decide) rfl rfl rfl rfl

end Sys2Proof.Laws.EncodesRow
end

