-- ==== Sys2Proof/Laws/Steps.lean ====
section
/-! SUPPORT. Everything one step can do (spec R103, R282, R283, R294), said once. -/

namespace Sys2Proof.Laws

open Sys2Proof.Machine

theorem completeStep_running {t : State} (h : t.status = .running) : completeStep (.next t) = .next (tick t) := by
  simp [completeStep, h]

theorem completeStep_faulted {t : State} {r : FaultRecord} (h : t.status = .faulted r) :
    completeStep (.next t) = .next t := by
  simp [completeStep, h]

/-- One timer of the tick as a number (R294): saturating at 0 (R33). -/
theorem tick_DT_toNat (s : State) : (tick s).DT.toNat = s.DT.toNat - 1 := by
  rw [tick_DT]; split
  · rename_i h; simp [h]
  · rename_i h
    have h1 : s.DT.toNat ≠ 0 := fun e => h (BitVec.eq_of_toNat_eq e)
    have h2 := s.DT.isLt
    rw [BitVec.toNat_sub]
    simp only [BitVec.toNat_ofNat]
    omega

theorem tick_ST_toNat (s : State) : (tick s).ST.toNat = s.ST.toNat - 1 := by
  rw [tick_ST]; split
  · rename_i h; simp [h]
  · rename_i h
    have h1 : s.ST.toNat ≠ 0 := fun e => h (BitVec.eq_of_toNat_eq e)
    have h2 := s.ST.isLt
    rw [BitVec.toNat_sub]
    simp only [BitVec.toNat_ofNat]
    omega

/-- A step of a faulted machine (R283). -/
theorem step_faulted {s : State} {r : FaultRecord} (h : s.status = .faulted r) : step s = .next s := by
  simp [step, h, stepFaulted]

/-- Everything a step of a running machine can do: its fetch faults, or its word is unrecognized and the fallback
completes, or its instruction faults, or its instruction completes. -/
theorem step_cases {s : State} (hs : s.status = .running) :
    (∃ c, fetchWord s = .error c ∧ step s = .next (takeFault c none (beginStep s))) ∨
    (∃ op e, fetchWord s = .ok op ∧ decode op = .error e ∧
      step s = .next (tick ({ beginStep s with diag := some { pc := s.pc, op := op } } : State).advance)) ∨
    (∃ op i c, fetchWord s = .ok op ∧ decode op = .ok i ∧
      exec i (beginStep s) = .next (takeFault c (some (encode i)) (beginStep s)) ∧
      step s = .next (takeFault c (some (encode i)) (beginStep s))) ∨
    (∃ op i t, fetchWord s = .ok op ∧ decode op = .ok i ∧ exec i (beginStep s) = .next t ∧ Completes (beginStep s) t ∧
      step s = .next (tick t)) := by
  cases hf : fetchWord s with
  | error c => exact .inl ⟨c, rfl, by simp [step, hs, hf, stepFetchFault]⟩
  | ok op =>
    cases hd : decode op with
    | error e =>
      refine .inr (.inl ⟨op, e, rfl, hd, ?_⟩)
      simp only [step, hs, fetchWord_beginStep, hf, hd, execUnrecognized]
      exact completeStep_running hs
    | ok i =>
      have hstep : step s = completeStep (exec i (beginStep s)) := by simp [step, hs, hf, hd]
      obtain ⟨c, hc⟩ | ⟨t, ht, hk⟩ := exec_cases i (beginStep s)
      · refine .inr (.inr (.inl ⟨op, i, c, rfl, hd, hc, ?_⟩))
        rw [hstep, hc]; exact completeStep_faulted rfl
      · refine .inr (.inr (.inr ⟨op, i, t, rfl, hd, ht, hk, ?_⟩))
        rw [hstep, ht]; exact completeStep_running (hk.status.trans hs)

end Sys2Proof.Laws
end

