-- ==== Sys2Proof/Tests/Slice0.lean ====
section
/-! SUPPORT. Tests and witnesses. The expected values are those of spec/95_test_vectors.md (each test names its vector) and of
the examples in the instruction rules; the decode tests' words are written out from the encodings of R91 and R94. -/

namespace Sys2Proof.Tests

open Sys2Proof.Machine

/-! ## Small states -/

/-- Bytes put into memory from an address upward. -/
def poke (a : Nat) (bs : List Byte) (s : State) : State := { s with mem := loadBytes s.cfg.glyphs s.mem a bs }

/-- The reset state with an instruction word at pc and pc + 1. -/
def boot (w : Nat) : State := State.reset.withFetchWord 16 w

/-- A state with one pixel flipped. -/
def lit (j : Nat) (s : State) : State := { s with FB := flipPixel s.FB j }

/-- A state with `n` stack slots occupied, the given word in each slot. -/
def called (n : Fin 17) (w : Word) (s : State) : State := { s with SP := n, stack := Vector.replicate 16 w }

/-- A state with one key held. -/
def holding (k : Fin 16) (s : State) : State := { s with key := s.key.set k.val true }

/-- A state under DRAW_OOB = Fault. -/
def strict (s : State) : State := { s with cfg := { s.cfg with drawOob := .fault } }

/-- What a step's next state shows. -/
def after {α : Type} (f : State → α) (s : State) : Option α :=
  match step s with
  | .next t => some (f t)
  | _ => none

/-- The cause and the place of a fault, and the word recorded. -/
def faultOf (s : State) : Option (FaultCause × Nat × Option Word) :=
  match s.status with
  | .running => none
  | .faulted r => some (r.cause, r.pc.toNat, r.op)

/-- What a meaning's next state shows. -/
def ran {α : Type} (f : State → α) (r : Result) : Option α :=
  match r with
  | .next t => some (f t)
  | _ => none

/-! ## Well-formedness refuses: one ill-formed term for each check -/

theorem test_refuses_register_sixteen : Field.x.admits 16 = false ∧ Field.y.admits 16 = false := by decide
theorem test_refuses_row_count_sixteen : Field.n.admits 16 = false := by decide
theorem test_refuses_immediate_256 : Field.kk.admits 256 = false := by decide
theorem test_refuses_address_4096 : Field.nnn.admits 4096 = false := by decide
theorem test_admits_largest_operands :
    Field.x.admits 15 = true ∧ Field.n.admits 15 = true ∧ Field.kk.admits 255 = true ∧ Field.nnn.admits 4095 = true := by
  decide
theorem test_refuses_words_of_no_row :
    ([0x0000#16, 0x0123#16, 0x01E0#16, 0x5121#16, 0x8128#16, 0x812F#16, 0x9121#16, 0xE39F#16, 0xF00A#16] : List Word).all
      (fun w => !wordWellFormed w) = true := by decide
theorem test_admits_words_of_a_row :
    ([0x00E0#16, 0x00EE#16, 0x1ABC#16, 0x5120#16, 0x812E#16, 0xF265#16] : List Word).all wordWellFormed = true := by decide
theorem test_refuses_oversized_image : imageWellFormed (List.replicate 3585 0x00#8) = false := by
  rw [imageWellFormed, List.length_replicate]; decide
theorem test_admits_longest_and_empty_image :
    imageWellFormed (List.replicate 3584 0x00#8) = true ∧ imageWellFormed [] = true := by
  rw [imageWellFormed, List.length_replicate]; decide

/-! ## Decode: a word of every class written out bit by bit (R91, R94) -/

theorem test_decode_00E0 : decode 0b0000000011100000#16 = .ok (.op00E0) := by decide
theorem test_decode_00EE : decode 0b0000000011101110#16 = .ok (.op00EE) := by decide
theorem test_decode_1NNN : decode 0b0001101010111100#16 = .ok (.op1NNN 0xABC#12) := by decide
theorem test_decode_2NNN : decode 0b0010001100000100#16 = .ok (.op2NNN 0x304#12) := by decide
theorem test_decode_3XKK : decode 0b0011000101000010#16 = .ok (.op3XKK 0x1#4 0x42#8) := by decide
theorem test_decode_4XKK : decode 0b0100001011111101#16 = .ok (.op4XKK 0x2#4 0xFD#8) := by decide
theorem test_decode_5XY0 : decode 0b0101000100100000#16 = .ok (.op5XY0 0x1#4 0x2#4) := by decide
theorem test_decode_6XKK : decode 0b0110101001111111#16 = .ok (.op6XKK 0xA#4 0x7F#8) := by decide
theorem test_decode_7XKK : decode 0b0111111100000001#16 = .ok (.op7XKK 0xF#4 0x01#8) := by decide
theorem test_decode_8XY0 : decode 0b1000000100100000#16 = .ok (.op8XY0 0x1#4 0x2#4) := by decide
theorem test_decode_8XY1 : decode 0b1000000100100001#16 = .ok (.op8XY1 0x1#4 0x2#4) := by decide
theorem test_decode_8XY2 : decode 0b1000000100100010#16 = .ok (.op8XY2 0x1#4 0x2#4) := by decide
theorem test_decode_8XY3 : decode 0b1000000100100011#16 = .ok (.op8XY3 0x1#4 0x2#4) := by decide
theorem test_decode_8XY4 : decode 0b1000000100100100#16 = .ok (.op8XY4 0x1#4 0x2#4) := by decide
theorem test_decode_8XY5 : decode 0b1000000100100101#16 = .ok (.op8XY5 0x1#4 0x2#4) := by decide
theorem test_decode_8XY6 : decode 0b1000000100100110#16 = .ok (.op8XY6 0x1#4 0x2#4) := by decide
theorem test_decode_8XY7 : decode 0b1000000100100111#16 = .ok (.op8XY7 0x1#4 0x2#4) := by decide
theorem test_decode_8XYE : decode 0b1000000100101110#16 = .ok (.op8XYE 0x1#4 0x2#4) := by decide
theorem test_decode_9XY0 : decode 0b1001111000110000#16 = .ok (.op9XY0 0xE#4 0x3#4) := by decide
theorem test_decode_ANNN : decode 0b1010000100100011#16 = .ok (.opANNN 0x123#12) := by decide
theorem test_decode_BNNN : decode 0b1011001100000000#16 = .ok (.opBNNN 0x300#12) := by decide
theorem test_decode_CXKK : decode 0b1100001100001111#16 = .ok (.opCXKK 0x3#4 0x0F#8) := by decide
theorem test_decode_DXYN : decode 0b1101000100100101#16 = .ok (.opDXYN 0x1#4 0x2#4 0x5#4) := by decide
theorem test_decode_EX9E : decode 0b1110010110011110#16 = .ok (.opEX9E 0x5#4) := by decide
theorem test_decode_EXA1 : decode 0b1110010110100001#16 = .ok (.opEXA1 0x5#4) := by decide
theorem test_decode_FX07 : decode 0b1111000100000111#16 = .ok (.opFX07 0x1#4) := by decide
theorem test_decode_FX15 : decode 0b1111000000010101#16 = .ok (.opFX15 0x0#4) := by decide
theorem test_decode_FX18 : decode 0b1111001000011000#16 = .ok (.opFX18 0x2#4) := by decide
theorem test_decode_FX1E : decode 0b1111010000011110#16 = .ok (.opFX1E 0x4#4) := by decide
theorem test_decode_FX29 : decode 0b1111101000101001#16 = .ok (.opFX29 0xA#4) := by decide
theorem test_decode_FX33 : decode 0b1111000000110011#16 = .ok (.opFX33 0x0#4) := by decide
theorem test_decode_FX55 : decode 0b1111001001010101#16 = .ok (.opFX55 0x2#4) := by decide
theorem test_decode_FX65 : decode 0b1111111101100101#16 = .ok (.opFX65 0xF#4) := by decide
theorem test_decode_bytes : decodeBytes [0x23#8, 0x04#8, 0xAA#8] = .ok (.op2NNN 0x304#12, [0xAA#8]) := by decide
theorem test_decode_short : decodeBytes [0x23#8] = .error .truncated := by decide
theorem test_decode_table_word : decodeTableWord 16 0xD125 = some (.opDXYN 0x1#4 0x2#4 0x5#4) := by decide
theorem test_asm_listing :
    [asmWord 0xD125#16, asmWord 0xF265#16, asmWord 0x120C#16, asmWord 0x0000#16] =
      ["DRW V1, V2, 5", "LD V2, [I]", "JP 20C", ".word 0x0000"] := by decide

/-! ## One step (95_test_vectors.md L2) -/

/-- DR1. -/
theorem test_00E0_clears :
    after (fun t => (pixel t.FB 0, pixel t.FB 100, pixel t.FB 2047, t.dirty, t.outcome)) (lit 0 (lit 100 (lit 2047 (boot 0x00E0)))) =
      some (false, false, false, true, .completed true none) := by decide
/-- CT6. -/
theorem test_00EE_returns : after (fun t => (t.pc.toNat, t.SP.val)) (called 1 0x204#16 (boot 0x00EE)) = some (0x206, 0) := by
  decide
/-- CT7. -/
theorem test_00EE_underflows :
    after faultOf (boot 0x00EE) = some (some (.stackUnderflow 0, 0x200, some 0x00EE#16)) := by decide
/-- CT1. -/
theorem test_1NNN_jumps : after (·.pc.toNat) (boot 0x1ABC) = some 0xABC := by decide
/-- CT4. -/
theorem test_2NNN_fills_the_stack :
    after (fun t => (t.pc.toNat, t.SP.val, t.stack[15].toNat)) (called 15 0x0000#16 (boot 0x2300)) = some (0x300, 16, 0x200) := by
  decide
/-- CT5. -/
theorem test_2NNN_overflows :
    after faultOf (called 16 0x0000#16 (boot 0x2300)) = some (some (.stackOverflow 16, 0x200, some 0x2300#16)) := by decide
/-- SK1, SK2. -/
theorem test_3XKK :
    after (·.pc.toNat) ((boot 0x3142).setV 0x1#4 0x42#8) = some 0x204 ∧
    after (·.pc.toNat) ((boot 0x3142).setV 0x1#4 0x41#8) = some 0x202 := by decide
/-- SK3, SK4. -/
theorem test_4XKK :
    after (·.pc.toNat) ((boot 0x4142).setV 0x1#4 0x41#8) = some 0x204 ∧
    after (·.pc.toNat) ((boot 0x4142).setV 0x1#4 0x42#8) = some 0x202 := by decide
/-- SK5, SK6. -/
theorem test_5XY0 :
    after (·.pc.toNat) (((boot 0x5120).setV 0x1#4 0x07#8).setV 0x2#4 0x07#8) = some 0x204 ∧
    after (·.pc.toNat) (((boot 0x5120).setV 0x1#4 0x07#8).setV 0x2#4 0x08#8) = some 0x202 := by decide
/-- LD1. -/
theorem test_6XKK : after (fun t => (t.getV 0xA#4, t.pc.toNat)) (boot 0x6A7F) = some (0x7F#8, 0x202) := by decide
/-- LD4. -/
theorem test_7XKK_wraps :
    after (fun t => (t.getV 0x1#4, t.getV flagReg)) (((boot 0x7102).setV 0x1#4 0xFF#8).setV flagReg 0x33#8) =
      some (0x01#8, 0x33#8) := by decide
/-- LD5. -/
theorem test_7XKK_on_flag : after (·.getV flagReg) ((boot 0x7F01).setV flagReg 0xFF#8) = some 0x00#8 := by decide

/-- AL1. -/
theorem test_8XY0 :
    after (fun t => (t.getV 0x1#4, t.getV flagReg)) ((((boot 0x8120).setV 0x1#4 0x11#8).setV 0x2#4 0x22#8).setV flagReg 0x55#8) =
      some (0x22#8, 0x55#8) := by decide
/-- AL2. -/
theorem test_8XY1 :
    after (fun t => (t.getV 0x1#4, t.getV flagReg)) ((((boot 0x8121).setV 0x1#4 0xF0#8).setV 0x2#4 0x0F#8).setV flagReg 0x55#8) =
      some (0xFF#8, 0x55#8) := by decide
/-- AL3. -/
theorem test_8XY2 :
    after (fun t => (t.getV 0x1#4, t.getV flagReg)) ((((boot 0x8122).setV 0x1#4 0x3C#8).setV 0x2#4 0x0F#8).setV flagReg 0x55#8) =
      some (0x0C#8, 0x55#8) := by decide
/-- AL4, AL5. -/
theorem test_8XY3 :
    after (fun t => (t.getV 0x1#4, t.getV flagReg)) ((((boot 0x8123).setV 0x1#4 0xFF#8).setV 0x2#4 0x0F#8).setV flagReg 0x55#8) =
      some (0xF0#8, 0x55#8) ∧
    after (fun t => (t.getV 0x1#4, t.getV flagReg)) (((boot 0x8113).setV 0x1#4 0xA5#8).setV flagReg 0x55#8) =
      some (0x00#8, 0x55#8) := by decide
/-- AL6, AL9. -/
theorem test_8XY4 :
    after (fun t => (t.getV 0x0#4, t.getV flagReg)) (((boot 0x8014).setV 0x0#4 0xFF#8).setV 0x1#4 0x01#8) =
      some (0x00#8, 0x01#8) ∧
    after (fun t => (t.getV 0x0#4, t.getV flagReg)) ((((boot 0x8014).setV 0x0#4 0x80#8).setV 0x1#4 0x7F#8).setV flagReg 0x09#8) =
      some (0xFF#8, 0x00#8) := by decide
/-- AL23, AL24, AL25. -/
theorem test_8XY4_flag_operands :
    after (fun t => t.getV flagReg) (((boot 0x8F14).setV flagReg 0xFF#8).setV 0x1#4 0x01#8) = some 0x02#8 ∧
    after (fun t => (t.getV 0x1#4, t.getV flagReg)) (((boot 0x81F4).setV 0x1#4 0x10#8).setV flagReg 0x05#8) =
      some (0x10#8, 0x00#8) ∧
    after (fun t => t.getV flagReg) ((boot 0x8FF4).setV flagReg 0x80#8) = some 0x02#8 := by decide
/-- AL10, AL12. -/
theorem test_8XY5 :
    after (fun t => (t.getV 0x0#4, t.getV flagReg)) (((boot 0x8015).setV 0x0#4 0x05#8).setV 0x1#4 0x05#8) =
      some (0x00#8, 0x00#8) ∧
    after (fun t => (t.getV 0x0#4, t.getV flagReg)) (((boot 0x8015).setV 0x0#4 0x03#8).setV 0x1#4 0x05#8) =
      some (0xFE#8, 0x00#8) := by decide
/-- AL26, AL27. -/
theorem test_8XY5_flag_operands :
    after (fun t => t.getV flagReg) (((boot 0x8F15).setV flagReg 0x05#8).setV 0x1#4 0x03#8) = some 0xFE#8 ∧
    after (fun t => (t.getV 0x1#4, t.getV flagReg)) (((boot 0x81F5).setV 0x1#4 0x05#8).setV flagReg 0x03#8) =
      some (0x04#8, 0x01#8) := by decide
/-- AL14, AL15. -/
theorem test_8XY6 :
    after (fun t => (t.getV 0x0#4, t.getV flagReg)) (((boot 0x8016).setV 0x0#4 0x03#8).setV 0x1#4 0x10#8) =
      some (0x08#8, 0x01#8) ∧
    after (fun t => (t.getV 0x0#4, t.getV flagReg)) (((boot 0x8016).setV 0x0#4 0x02#8).setV 0x1#4 0xFF#8) =
      some (0x7F#8, 0x00#8) := by decide
/-- AL28, AL29. -/
theorem test_8XY6_flag_operands :
    after (fun t => t.getV flagReg) (((boot 0x8F16).setV flagReg 0x03#8).setV 0x1#4 0x10#8) = some 0x08#8 ∧
    after (fun t => (t.getV 0x1#4, t.getV flagReg)) (((boot 0x81F6).setV 0x1#4 0x03#8).setV flagReg 0x10#8) =
      some (0x00#8, 0x01#8) := by decide
/-- AL17, AL18. -/
theorem test_8XY7 :
    after (fun t => (t.getV 0x0#4, t.getV flagReg)) (((boot 0x8017).setV 0x0#4 0x03#8).setV 0x1#4 0x05#8) =
      some (0x02#8, 0x01#8) ∧
    after (fun t => (t.getV 0x0#4, t.getV flagReg)) (((boot 0x8017).setV 0x0#4 0x05#8).setV 0x1#4 0x03#8) =
      some (0xFE#8, 0x00#8) := by decide
/-- AL30. -/
theorem test_8XY7_flag_operand :
    after (fun t => t.getV flagReg) (((boot 0x8F17).setV flagReg 0x03#8).setV 0x1#4 0x05#8) = some 0x04#8 := by decide
/-- AL20, AL21. -/
theorem test_8XYE :
    after (fun t => (t.getV 0x0#4, t.getV flagReg)) (((boot 0x801E).setV 0x0#4 0x80#8).setV 0x1#4 0x01#8) =
      some (0x02#8, 0x01#8) ∧
    after (fun t => (t.getV 0x0#4, t.getV flagReg)) (((boot 0x801E).setV 0x0#4 0x7F#8).setV 0x1#4 0x81#8) =
      some (0x02#8, 0x00#8) := by decide
/-- AL31, AL32. -/
theorem test_8XYE_flag_operands :
    after (fun t => t.getV flagReg) (((boot 0x8F1E).setV flagReg 0x80#8).setV 0x1#4 0x01#8) = some 0x02#8 ∧
    after (fun t => (t.getV 0x1#4, t.getV flagReg)) (((boot 0x81FE).setV 0x1#4 0x80#8).setV flagReg 0x40#8) =
      some (0x02#8, 0x01#8) := by decide
/-- SK8, SK9. -/
theorem test_9XY0 :
    after (·.pc.toNat) (((boot 0x9120).setV 0x1#4 0x07#8).setV 0x2#4 0x08#8) = some 0x204 ∧
    after (·.pc.toNat) (((boot 0x9120).setV 0x1#4 0x07#8).setV 0x2#4 0x07#8) = some 0x202 := by decide
/-- IM1. -/
theorem test_ANNN : after (·.I.toNat) (boot 0xA123) = some 0x123 := by decide
/-- CT8, CT9. -/
theorem test_BNNN :
    after (·.pc.toNat) ((boot 0xB300).setV 0x0#4 0x10#8) = some 0x310 ∧
    after (·.pc.toNat) ((boot 0xBFFF).setV 0x0#4 0xFF#8) = some 0x10FE := by decide
/-- LD7: mask 0 gives 0 for any draw. -/
theorem test_CXKK_mask_zero : after (·.getV 0x1#4) ((boot 0xC100).setV 0x1#4 0x77#8) = some 0x00#8 := by
  have h : after (·.getV 0x1#4) ((boot 0xC100).setV 0x1#4 0x77#8) = some (Config.randomByte 0 &&& 0x00#8) := rfl
  rw [h, BitVec.and_zero]
/-- LD6 and LD8, for whatever byte the oracle answers. -/
theorem test_CXKK_masks : after (·.getV 0x1#4) (boot 0xC10F) = some (Config.randomByte 0 &&& 0x0F#8) := rfl
/-- DR6, DR8, DR14. -/
theorem test_DXYN_draws :
    after (fun t => (t.FB[0].toNat, t.FB[1].toNat, t.getV flagReg, t.outcome))
      (poke 0x300 [0xFF#8] (((boot 0xD011).setI 0x300#16).setV 0x0#4 0x3E#8)) =
      some (2 ^ 62 + 2 ^ 63, 0x3F, 0x00#8, .completed true none) ∧
    after (fun t => (t.FB[31].toNat, t.getV flagReg, t.dirty))
      (poke 0x300 [0xFF#8, 0xFF#8] (((boot 0xD012).setI 0x300#16).setV 0x1#4 0x1F#8)) = some (0xFF, 0x00#8, true) ∧
    after (fun t => (pixel t.FB 2, t.getV flagReg))
      (poke 0x300 [0x80#8] (lit 2 (((boot 0xDF01).setI 0x300#16).setV flagReg 0x02#8))) = some (false, 0x01#8) := by decide
/-- DR9, DR12. -/
theorem test_DXYN_faults :
    after (fun t => (faultOf t, t.FB[31].toNat, t.dirty))
      (strict (poke 0x300 [0xFF#8, 0xFF#8] (((boot 0xD012).setI 0x300#16).setV 0x1#4 0x1F#8))) =
      some (some (.drawOutOfRange 2048, 0x200, some 0xD012#16), 0, false) ∧
    after faultOf ((boot 0xD012).setI 0xFFF#16) = some (some (.memOutOfRange 0x1000 .read, 0x200, some 0xD012#16)) :=
  ⟨by decide, by decide⟩
/-- SK12, SK13. -/
theorem test_EX9E :
    after (·.pc.toNat) (holding 10 ((boot 0xE39E).setV 0x3#4 0x0A#8)) = some 0x204 ∧
    after (·.pc.toNat) ((boot 0xE39E).setV 0x3#4 0x0A#8) = some 0x202 := by decide
/-- SK16. -/
theorem test_EX9E_faults :
    after faultOf ((boot 0xE39E).setV 0x3#4 0x10#8) = some (some (.keyIndexOutOfRange 0x10#8, 0x200, some 0xE39E#16)) := by
  decide
/-- SK14, SK15. -/
theorem test_EXA1 :
    after (·.pc.toNat) ((boot 0xE3A1).setV 0x3#4 0x0A#8) = some 0x204 ∧
    after (·.pc.toNat) (holding 10 ((boot 0xE3A1).setV 0x3#4 0x0A#8)) = some 0x202 := by decide
/-- SK17. -/
theorem test_EXA1_faults :
    after faultOf ((boot 0xE3A1).setV 0x3#4 0xFF#8) = some (some (.keyIndexOutOfRange 0xFF#8, 0x200, some 0xE3A1#16)) := by
  decide
/-- TM1. -/
theorem test_FX07 : after (fun t => (t.getV 0x1#4, t.DT)) ((boot 0xF107).setDT 0x05#8) = some (0x05#8, 0x04#8) := by decide
/-- TM3, TM4. -/
theorem test_FX15 :
    after (·.DT) ((boot 0xF015).setV 0x0#4 0x03#8) = some 0x02#8 ∧ after (·.DT) ((boot 0xF015).setDT 0x09#8) = some 0x00#8 := by
  decide
/-- TM5, TM6. -/
theorem test_FX18 :
    after (fun t => (t.ST, shouldBeep t)) ((boot 0xF218).setV 0x2#4 0x10#8) = some (0x0F#8, true) ∧
    after (fun t => (t.ST, shouldBeep t)) ((boot 0xF218).setV 0x2#4 0x01#8) = some (0x00#8, false) := by decide
/-- IM3, IM4. -/
theorem test_FX1E :
    after (fun t => (t.I.toNat, t.getV flagReg)) (((boot 0xF41E).setI 0xFFFF#16).setV 0x4#4 0x02#8) = some (1, 0x00#8) ∧
    after (·.I.toNat) (((boot 0xF41E).setI 0xFFF#16).setV 0x4#4 0x01#8) = some 0x1000 := by decide
/-- IM5, IM7. -/
theorem test_FX29 :
    after (·.I.toNat) ((boot 0xF029).setV 0x0#4 0x0A#8) = some 0x032 ∧
    after (·.I.toNat) ((boot 0xF029).setV 0x0#4 0xFF#8) = some 0x4FB := by decide
/-- IM8, IM13. -/
theorem test_FX33 :
    after (fun t => (t.byteAt 0x300, t.byteAt 0x301, t.byteAt 0x302)) (((boot 0xF033).setV 0x0#4 0xFE#8).setI 0x300#16) =
      some (0x02#8, 0x05#8, 0x04#8) ∧
    after (fun t => (t.byteAt 0x050, t.byteAt 0x052)) (((boot 0xF033).setV 0x0#4 0x07#8).setI 0x050#16) =
      some (0x00#8, 0x07#8) := by decide
/-- IM11, IM12. -/
theorem test_FX33_faults :
    after (fun t => (faultOf t, t.mem)) (((boot 0xF033).setV 0x0#4 0x07#8).setI 0xFFE#16) =
      some (some (.memOutOfRange 0x1000 .write, 0x200, some 0xF033#16), (boot 0xF033).mem) ∧
    after faultOf (((boot 0xF033).setV 0x0#4 0x07#8).setI 0x04E#16) = some (some (.glyphWrite 0x04E, 0x200, some 0xF033#16)) :=
  ⟨by decide, by decide⟩
/-- IM14, IM15. -/
theorem test_FX55 :
    after (fun t => (t.byteAt 0x400, t.byteAt 0x401, t.byteAt 0x402, t.byteAt 0x403, t.I.toNat))
      (((((boot 0xF255).setV 0x0#4 0x11#8).setV 0x1#4 0x22#8).setV 0x2#4 0x33#8).setI 0x400#16) =
      some (0x11#8, 0x22#8, 0x33#8, 0x00#8, 0x400) ∧
    after (·.byteAt 0xFFF) (((boot 0xF055).setV 0x0#4 0x99#8).setI 0xFFF#16) = some 0x99#8 := by decide
/-- IM16, IM17. -/
theorem test_FX55_faults :
    after (fun t => (faultOf t, t.mem)) (((boot 0xFF55).setV 0x0#4 0x01#8).setI 0xFF1#16) =
      some (some (.memOutOfRange 0x1000 .write, 0x200, some 0xFF55#16), (boot 0xFF55).mem) ∧
    after faultOf ((boot 0xF155).setI 0x04F#16) = some (some (.glyphWrite 0x04F, 0x200, some 0xF155#16)) :=
  ⟨by decide, by decide⟩
/-- IM18, IM19. -/
theorem test_FX65 :
    after (fun t => (t.getV 0x0#4, t.getV 0x1#4, t.getV 0x2#4, t.getV 0x3#4))
      (poke 0x300 [0x02#8, 0x05#8, 0x04#8, 0x09#8] ((boot 0xF265).setI 0x300#16)) = some (0x02#8, 0x05#8, 0x04#8, 0x00#8) ∧
    after (fun t => (t.getV 0x5#4, t.getV 0xD#4, t.getV flagReg)) (boot 0xFF65) = some (0x20#8, 0x80#8, 0xF0#8) := by decide
/-- IM20. -/
theorem test_FX65_faults :
    after (fun t => (faultOf t, t.getV 0x0#4)) (((boot 0xF165).setI 0xFFF#16).setV 0x0#4 0x77#8) =
      some (some (.memOutOfRange 0x1000 .read, 0x200, some 0xF165#16), 0x77#8) := by decide
/-- FB1. -/
theorem test_fallback_ticks :
    after (fun t => (t.pc.toNat, t.DT, t.outcome)) ((boot 0x0000).setDT 0x02#8) =
      some (0x202, 0x01#8, .completed false (some { pc := 0x200#16, op := 0x0000#16 })) := by decide
/-- SK7, FB3, FB4. -/
theorem test_fallback_words :
    after (·.diag) (boot 0x5121) = some (some { pc := 0x200#16, op := 0x5121#16 }) ∧
    after (fun t => (pixel t.FB 5, t.diag)) (lit 5 (boot 0x01E0)) = some (true, some { pc := 0x200#16, op := 0x01E0#16 }) ∧
    after (·.diag) (boot 0xF00A) = some (some { pc := 0x200#16, op := 0xF00A#16 }) := by decide
/-- FE1, FE3: an odd pc, and the last pc that can be fetched from. -/
theorem test_fetch_odd_and_last :
    after (·.pc.toNat) ((State.reset.setPc 0x201#16).withFetchWord 16 0x1200) = some 0x200 ∧
    after (·.pc.toNat) ((State.reset.setPc 0xFFE#16).withFetchWord 16 0x1200) = some 0x200 := by decide
/-- FE2, FE4, and the fetch after CT9. -/
theorem test_fetch_faults :
    after faultOf (State.reset.setPc 0xFFF#16) = some (some (.memOutOfRange 0x1000 .fetch, 0xFFF, none)) ∧
    after faultOf (State.reset.setPc 0x1000#16) = some (some (.memOutOfRange 0x1000 .fetch, 0x1000, none)) ∧
    after faultOf (State.reset.setPc 0x10FE#16) = some (some (.memOutOfRange 0x10FE .fetch, 0x10FE, none)) :=
  ⟨by decide, by decide, by decide⟩
/-- The codes and names of R284. -/
theorem test_fault_codes :
    [FaultCause.memOutOfRange 4096 .read, .glyphWrite 0, .stackOverflow 16, .stackUnderflow 0, .keyIndexOutOfRange 16,
      .drawOutOfRange 2048].map (fun c => (c.code, c.name)) =
    [(1, "MemOutOfRange"), (2, "GlyphWrite"), (3, "StackOverflow"), (4, "StackUnderflow"), (5, "KeyIndexOutOfRange"),
      (6, "DrawOutOfRange")] := by decide
/-- CO4. -/
theorem test_construct_short_image :
    (match construct Config.default [0xA2#8, 0x50#8] with
      | .ok s => some (s.byteAt 0x04F, s.byteAt 0x200, s.byteAt 0x201, s.byteAt 0x202, s.pc.toNat, shouldBeep s)
      | .error _ => none) = some (0x80#8, 0xA2#8, 0x50#8, 0x00#8, 0x200, false) := by decide
/-- CO2. -/
theorem test_construct_oversized :
    construct Config.default (List.replicate 3585 0x00#8) = .error (.imageTooLarge 3585) := by
  rw [construct, test_refuses_oversized_image, List.length_replicate]; rfl

/-! ## Witnesses: for each obligation with hypotheses, a concrete state and operands that meet them, clause by clause -/

/-- A machine that has taken a fault: the step of 00EE on an empty stack. -/
def broken : State := takeFault (.stackUnderflow 0) (some 0x00EE#16) (boot 0x00EE)

/-- A machine one step from an overflowing call. -/
def full : State := called 16 0x200#16 (boot 0x2300)

theorem witness_DecodeOfEncodeIsIdentity : (Instr.opDXYN 0xF#4 0xF#4 0xF#4).wellFormed = true := by decide
theorem witness_EncodeOfDecodeIsIdentity : decode 0xFF65#16 = .ok (.opFX65 0xF#4) := by decide
theorem witness_DecoderFollowsOpcodeMap :
    (⟨"8XYE", 0x800E#16, 0xF00F#16⟩ : OpcodeRow) ∈ opcodeMap ∧
    (⟨"8XYE", 0x800E#16, 0xF00F#16⟩ : OpcodeRow).selects 0x8FFE#16 = true ∧ wordWellFormed 0x800F#16 = false := by decide
theorem witness_FetchReadsTwoBytesHighFirst :
    ((State.reset.setPc 0xFFE#16).Running ∧ (State.reset.setPc 0xFFE#16).pc.toNat ≤ 0xFFE) ∧
    ((State.reset.setPc 0xFFF#16).Running ∧ 0xFFE < (State.reset.setPc 0xFFF#16).pc.toNat) := by decide
theorem witness_StepRunsTheDecodedInstruction :
    ((boot 0x00EE).Running ∧ (boot 0x00EE).pc.toNat ≤ 0xFFE ∧
      decode (joinBytes ((boot 0x00EE).byteAt (boot 0x00EE).pc.toNat) ((boot 0x00EE).byteAt ((boot 0x00EE).pc.toNat + 1))) =
        .ok .op00EE ∧
      exec .op00EE { boot 0x00EE with drew := false, diag := none } = .next broken ∧ ¬ broken.Running) ∧
    (∃ u, exec .op00E0 { boot 0x00E0 with drew := false, diag := none } = .next u ∧ u.Running) :=
  ⟨⟨by decide, by decide, by decide, rfl, by decide⟩, _, rfl, rfl⟩
theorem witness_UnrecognizedWordIsReportedNoOp :
    (boot 0x5121).Running ∧ (boot 0x5121).pc.toNat ≤ 0xFFE ∧
    0x5121#16 = joinBytes ((boot 0x5121).byteAt (boot 0x5121).pc.toNat) ((boot 0x5121).byteAt ((boot 0x5121).pc.toNat + 1)) ∧
    ∀ r ∈ opcodeMap, r.selects 0x5121#16 = false := by decide
theorem witness_EveryCompletedStepTicksOnce :
    (∃ t, (boot 0x1200).Running ∧ step (boot 0x1200) = .next t ∧ t.Running) ∧
    (∃ t, full.Running ∧ step full = .next t ∧ ¬ t.Running) :=
  ⟨⟨_, rfl, rfl, rfl⟩, ⟨_, rfl, rfl, by decide⟩⟩
theorem witness_TimerWritesMeetTheSameStepsTick :
    (boot 0xFF07).Running ∧ (boot 0xFF07).pc.toNat ≤ 0xFFE ∧ fetchWord (boot 0xFF07) = .ok 0xFF07#16 ∧
    decode 0xFF07#16 = .ok (.opFX07 0xF#4) ∧ fetchWord (boot 0xF015) = .ok 0xF015#16 ∧
    decode 0xF015#16 = .ok (.opFX15 0x0#4) ∧ fetchWord (boot 0xF018) = .ok 0xF018#16 ∧
    decode 0xF018#16 = .ok (.opFX18 0x0#4) := by decide
theorem witness_StepReportsWhatItDid :
    (∃ t, (boot 0xD010).Running ∧ step (boot 0xD010) = .next t ∧ t.Running ∧ t.drew = true) ∧
    (∃ t, (boot 0x0000).Running ∧ step (boot 0x0000) = .next t ∧ t.Running ∧ t.drew = false) :=
  ⟨⟨_, rfl, rfl, rfl, rfl⟩, ⟨_, rfl, rfl, rfl, rfl⟩⟩
theorem witness_StepKeepsTheInvariant : State.reset.Inv ∧ ∃ t, step State.reset = .next t :=
  ⟨⟨rfl, fun a h => dif_pos h, by decide, fun _ _ h => absurd h (Nat.not_lt_zero _)⟩, _, rfl⟩
theorem witness_InvariantAlongEveryHostRun : ∃ s, construct Config.default [0x22#8, 0x00#8] = .ok s := ⟨_, rfl⟩
theorem witness_GlyphTableIsImmutable : ∃ t, step (((boot 0xF055).setI 0x04F#16)) = .next t := ⟨_, rfl⟩
theorem witness_FaultedIsTerminal :
    (boot 0x1200).Running ∧ ∃ r, broken.status = .faulted r := ⟨rfl, _, rfl⟩
theorem witness_RunningAtTheEndMeansASafeRun : ∃ t, runSteps 2 (boot 0x1200) = .next t ∧ t.Running := ⟨_, rfl, rfl⟩
theorem witness_FaultRestoresTheStepsEntryState :
    (∃ t r, full.Running ∧ step full = .next t ∧ t.status = .faulted r ∧ fetchWord full = .ok 0x2300#16) ∧
    (∃ t r c, (State.reset.setPc 0x1000#16).Running ∧ step (State.reset.setPc 0x1000#16) = .next t ∧
      t.status = .faulted r ∧ fetchWord (State.reset.setPc 0x1000#16) = .error c) :=
  ⟨⟨_, _, rfl, rfl, rfl, rfl⟩, ⟨_, _, _, rfl, rfl, rfl, rfl⟩⟩
theorem witness_OnlyTheListedClassesFault :
    ran (fun t => (faultOf t).map (·.1)) (exec .op00EE State.reset) = some (some (.stackUnderflow 0)) ∧
    ran (fun t => (faultOf t).map (·.1)) (exec (.op2NNN 0x300#12) full) = some (some (.stackOverflow 16)) ∧
    ran (fun t => (faultOf t).map (·.1)) (exec (.opEX9E 0x3#4) (State.reset.setV 0x3#4 0x10#8)) =
      some (some (.keyIndexOutOfRange 0x10#8)) ∧
    ran (fun t => (faultOf t).map (·.1)) (exec (.opEXA1 0x3#4) (State.reset.setV 0x3#4 0xFF#8)) =
      some (some (.keyIndexOutOfRange 0xFF#8)) ∧
    ran (fun t => (faultOf t).map (·.1)) (exec (.opFX33 0x0#4) (State.reset.setI 0xFFE#16)) =
      some (some (.memOutOfRange 4096 .write)) ∧
    ran (fun t => (faultOf t).map (·.1)) (exec (.opFX55 0x0#4) (State.reset.setI 0x04F#16)) = some (some (.glyphWrite 0x04F)) ∧
    ran (fun t => (faultOf t).map (·.1)) (exec (.opFX65 0x1#4) (State.reset.setI 0xFFF#16)) =
      some (some (.memOutOfRange 4096 .read)) ∧
    ran (fun t => (faultOf t).map (·.1)) (exec (.opDXYN 0x0#4 0x0#4 0x2#4) (State.reset.setI 0xFFF#16)) =
      some (some (.memOutOfRange 4096 .read)) ∧
    ran (fun t => (faultOf t).map (·.1)) (exec (.opDXYN 0x0#4 0x1#4 0x1#4) (strict (State.reset.setV 0x1#4 0x20#8))) =
      some (some (.drawOutOfRange 2048)) :=
  ⟨by decide, by decide, by decide, by decide, by decide, by decide, by decide, by decide, by decide⟩
theorem witness_NextPcOfEveryClass :
    State.reset.Running ∧
    (∃ t, exec .op00EE State.reset = .next t ∧ ¬ t.Running) ∧
    (∃ t, exec .op00EE (called 1 0x204#16 State.reset) = .next t ∧ t.Running ∧ 0 < (called 1 0x204#16 State.reset).SP.val) ∧
    (∃ t, exec (.opEX9E 0x0#4) (State.reset.setV 0x0#4 0x0F#8) = .next t ∧ t.Running ∧
      ((State.reset.setV 0x0#4 0x0F#8).getV 0x0#4).toNat < 16) :=
  ⟨rfl, ⟨_, rfl, by decide⟩, ⟨_, rfl, rfl, by decide⟩, ⟨_, rfl, rfl, by decide⟩⟩
theorem witness_OnlyStoresWriteMemory :
    ∃ t, exec .op00E0 State.reset = .next t ∧ (∀ x, Instr.op00E0 ≠ .opFX33 x) ∧ (∀ x, Instr.op00E0 ≠ .opFX55 x) ∧
      ∀ x kk, Instr.op00E0 ≠ .opCXKK x kk :=
  ⟨_, rfl, nofun, nofun, nofun⟩
theorem witness_EachStoreHasItsWriters :
    ∃ t, exec (.op1NNN 0xFFF#12) State.reset = .next t ∧ Instr.op1NNN 0xFFF#12 ≠ .op00EE ∧
      (∀ a, Instr.op1NNN 0xFFF#12 ≠ .op2NNN a) ∧ Instr.op1NNN 0xFFF#12 ≠ .op00E0 ∧
      (∀ x y n, Instr.op1NNN 0xFFF#12 ≠ .opDXYN x y n) ∧ (∀ x, Instr.op1NNN 0xFFF#12 ≠ .opFX15 x) ∧
      (∀ x, Instr.op1NNN 0xFFF#12 ≠ .opFX18 x) ∧ (∀ a, Instr.op1NNN 0xFFF#12 ≠ .opANNN a) ∧
      (∀ x, Instr.op1NNN 0xFFF#12 ≠ .opFX1E x) ∧ ∀ x, Instr.op1NNN 0xFFF#12 ≠ .opFX29 x :=
  ⟨_, rfl, nofun, nofun, nofun, nofun, nofun, nofun, nofun, nofun, nofun⟩
theorem witness_FlagHasItsWriters :
    (∃ t, exec (.op6XKK 0xF#4 0x01#8) State.reset = .next t ∧ t.getV flagReg ≠ State.reset.getV flagReg) ∧
    (∃ t, exec (.opDXYN 0x0#4 0x0#4 0x1#4) (lit 0 State.reset) = .next t ∧
      t.getV flagReg ≠ (lit 0 State.reset).getV flagReg) ∧
    (∃ t, exec (.opFX65 0xF#4) State.reset = .next t ∧ t.getV flagReg ≠ State.reset.getV flagReg) :=
  ⟨⟨_, rfl, by decide⟩, ⟨_, rfl, by decide⟩, ⟨_, rfl, by decide⟩⟩
theorem witness_TimersAreNotReadByOtherInstructions : ∀ x, Instr.opFX15 0x0#4 ≠ .opFX07 x := nofun
theorem witness_DirtyAndOutputsAreNotRead : (boot 0xD015).Running := rfl
theorem witness_KeysAreReadByKeySkipsOnly :
    (∃ t, exec (.opEX9E 0x0#4) (holding 0 State.reset) = .next t) ∧
    (∀ x, Instr.op3XKK 0x0#4 0x00#8 ≠ .opEX9E x) ∧ ∀ x, Instr.op3XKK 0x0#4 0x00#8 ≠ .opEXA1 x :=
  ⟨⟨_, rfl⟩, nofun, nofun⟩
theorem witness_CallPushesItsOwnAddress : (called 15 0x0000#16 State.reset).SP.val < 16 ∧ full.SP.val = 16 := by decide
theorem witness_ReturnGoesPastTheCall : 0 < full.SP.val ∧ 0 < (called 1 0x204#16 State.reset).SP.val ∧ State.reset.SP.val = 0 := by
  decide
theorem witness_IndexedJumpAddsV0 :
    ∃ t, exec (.opBNNN 0xFFE#12) (State.reset.setV 0x0#4 0x01#8) = .next t ∧ 0xFFF ≤ t.pc.toNat := ⟨_, rfl, by decide⟩
theorem witness_ReturnPairsWithItsCall :
    ∃ s1 s2, State.reset.SP.val < 16 ∧ exec (.op2NNN 0x300#12) State.reset = .next s1 ∧ runSteps 1 s1 = .next s2 ∧
      (∀ j u, j ≤ 1 → runSteps j s1 = .next u → State.reset.SP.val < u.SP.val) ∧ s2.SP.val = State.reset.SP.val + 1 := by
  refine ⟨_, _, by decide, rfl, rfl, fun j u hj h => ?_, rfl⟩
  obtain rfl | rfl : j = 0 ∨ j = 1 := by omega
  all_goals (cases h; decide)
theorem witness_KeySkipsTestTheKey :
    ((State.reset.setV 0x3#4 0x0F#8).getV 0x3#4).toNat < 16 ∧ 15 < ((State.reset.setV 0x3#4 0x10#8).getV 0x3#4).toNat := by
  decide

/-- The hypotheses of the statements about 8XY4 to 8XYE: `a` and `b` are the operands and each clause says which of X and Y
is register 15. -/
theorem witness_AddSetsCarry :
    (255 = ((State.reset.setV 0x0#4 0xFF#8).setV 0x1#4 0x01#8 |>.getV 0x0#4).toNat ∧
      1 = ((State.reset.setV 0x0#4 0xFF#8).setV 0x1#4 0x01#8 |>.getV 0x1#4).toNat ∧ 1 = (if 256 ≤ 255 + 1 then 1 else 0)) ∧
    (0x0#4 ≠ flagReg ∧ 0x1#4 ≠ flagReg ∧ 0xF#4 = flagReg) := by decide
theorem witness_SubtractSetsStrictGreater :
    5 = ((State.reset.setV 0x0#4 0x05#8).setV 0x1#4 0x05#8 |>.getV 0x0#4).toNat ∧
    5 = ((State.reset.setV 0x0#4 0x05#8).setV 0x1#4 0x05#8 |>.getV 0x1#4).toNat ∧ 0 = (if 5 < 5 then 1 else 0) ∧
    0x0#4 ≠ flagReg ∧ 0x1#4 ≠ flagReg ∧ 0xF#4 = flagReg := by decide
theorem witness_ShiftRightTakesFlagFromVx :
    3 = ((State.reset.setV 0x0#4 0x03#8).setV 0x1#4 0x10#8 |>.getV 0x0#4).toNat ∧
    16 = ((State.reset.setV 0x0#4 0x03#8).setV 0x1#4 0x10#8 |>.getV 0x1#4).toNat ∧ 1 = 3 % 2 ∧
    0x0#4 ≠ flagReg ∧ 0x1#4 ≠ flagReg ∧ 0xF#4 = flagReg := by decide
theorem witness_ReverseSubtractSetsStrictGreater :
    3 = ((State.reset.setV 0x0#4 0x03#8).setV 0x1#4 0x05#8 |>.getV 0x0#4).toNat ∧
    5 = ((State.reset.setV 0x0#4 0x03#8).setV 0x1#4 0x05#8 |>.getV 0x1#4).toNat ∧ 1 = (if 3 < 5 then 1 else 0) ∧
    0x0#4 ≠ flagReg ∧ 0x1#4 ≠ flagReg ∧ 0xF#4 = flagReg := by decide
theorem witness_ShiftLeftTakesFlagFromVx :
    128 = ((State.reset.setV 0x0#4 0x80#8).setV 0x1#4 0x01#8 |>.getV 0x0#4).toNat ∧
    1 = ((State.reset.setV 0x0#4 0x80#8).setV 0x1#4 0x01#8 |>.getV 0x1#4).toNat ∧ 1 = 128 / 128 ∧
    0x0#4 ≠ flagReg ∧ 0x1#4 ≠ flagReg ∧ 0xF#4 = flagReg := by decide
theorem witness_DecimalDigitsAreStored :
    254 = ((State.reset.setV 0x0#4 0xFE#8).getV 0x0#4).toNat ∧
    (0x050 ≤ effectiveAddress (State.reset.setI 0x050#16) 0 ∧ effectiveAddress (State.reset.setI 0xFFD#16) 2 < 4096 ∧
      0x050 ≤ effectiveAddress (State.reset.setI 0xFFD#16) 0) ∧
    effectiveAddress (State.reset.setI 0x04F#16) 0 ≤ 0x04F ∧ 4096 ≤ effectiveAddress (State.reset.setI 0xFFE#16) 2 := by decide
theorem witness_RegistersAreStored :
    (0x050 ≤ effectiveAddress (State.reset.setI 0xFF0#16) 0 ∧ effectiveAddress (State.reset.setI 0xFF0#16) (0xF#4).toNat < 4096) ∧
    effectiveAddress (State.reset.setI 0x04F#16) 0 ≤ 0x04F ∧
    (4096 ≤ effectiveAddress (State.reset.setI 0xFF1#16) (0xF#4).toNat ∧ 0x050 ≤ effectiveAddress (State.reset.setI 0xFF1#16) 0) := by
  decide
theorem witness_RegistersAreLoaded :
    effectiveAddress (State.reset.setI 0xFF0#16) (0xF#4).toNat < 4096 ∧
    4096 ≤ effectiveAddress (State.reset.setI 0xFF1#16) (0xF#4).toNat := by decide
theorem witness_StoredBytesAreFetched :
    1 ≤ (0x1#4).toNat ∧ 0x050 ≤ effectiveAddress (State.reset.setI 0x208#16) 0 ∧
    effectiveAddress (State.reset.setI 0x208#16) (0x1#4).toNat < 4096 := by decide
theorem witness_StoreChangesOneCell :
    memWrite defaultGlyphs [] 0x050 0x07#8 = .ok [(0x050, 0x07#8)] ∧ Memory.wf defaultGlyphs [] = true := by decide
theorem witness_DrawFlipsTheTargetedPixels :
    (SpriteReadable (State.reset.setI 0xFF1#16) 0xF#4 ∧ State.reset.cfg.drawOob = .clip) ∧
    (SpriteReadable (strict State.reset) 0x5#4 ∧ SpriteTargets (strict State.reset) 0x0#4 0x1#4 0x5#4 0 ∧
      ∀ idx, SpriteTargets (strict State.reset) 0x0#4 0x1#4 0x5#4 idx → idx < 2048) := by
  refine ⟨⟨.inr (by decide), rfl⟩, .inr (by decide), ⟨0, 0, ⟨by decide, by decide, by decide⟩, rfl⟩, ?_⟩
  rintro idx ⟨row, col, ⟨hr, hc, -⟩, rfl⟩
  have h5 : row < 5 := hr
  show (0 + col) + (0 + row) * 64 < 2048
  omega
theorem witness_DrawFaultsAtTheFirstBadAccess :
    ¬ SpriteReadable (State.reset.setI 0xFFF#16) 0x2#4 ∧
    ∃ row col, SpriteReadable (strict (State.reset.setV 0x1#4 0x20#8)) 0x1#4 ∧
      (strict (State.reset.setV 0x1#4 0x20#8)).cfg.drawOob = .fault ∧
      SpriteBitSet (strict (State.reset.setV 0x1#4 0x20#8)) 0x1#4 row col ∧
      2048 ≤ targetIndex (strict (State.reset.setV 0x1#4 0x20#8)) 0x0#4 0x1#4 row col ∧
      ∀ row' col', SpriteBitSet (strict (State.reset.setV 0x1#4 0x20#8)) 0x1#4 row' col' →
        (row' < row ∨ (row' = row ∧ col' < col)) →
        targetIndex (strict (State.reset.setV 0x1#4 0x20#8)) 0x0#4 0x1#4 row' col' < 2048 :=
  ⟨fun h => by rcases h with h | h <;> exact absurd h (by decide), 0, 0, .inr (by decide), rfl, ⟨by decide, by decide, by decide⟩, by decide, fun _ _ _ h => by omega⟩
theorem witness_DrawingTwiceRestoresTheFrame :
    ∃ t u, State.reset.Running ∧ exec (.opDXYN 0x1#4 0x2#4 0x5#4) State.reset = .next t ∧ t.Running ∧
      t.getV 0x1#4 = State.reset.getV 0x1#4 ∧ t.getV 0x2#4 = State.reset.getV 0x2#4 ∧
      exec (.opDXYN 0x1#4 0x2#4 0x5#4) t = .next u ∧ SpriteTargets State.reset 0x1#4 0x2#4 0x5#4 0 :=
  ⟨_, _, rfl, rfl, rfl, rfl, rfl, rfl, 0, 0, ⟨by decide, by decide, by decide⟩, rfl⟩
theorem witness_ConstructionPlacesTheImage :
    (List.replicate 3584 0x01#8).length ≤ 3584 ∧ 3584 < (List.replicate 3585 0x01#8).length := by
  rw [List.length_replicate, List.length_replicate]; decide
theorem witness_FirstStepFetchesTheFirstWord :
    ∃ s i u, construct Config.default [0x1F#8, 0xFF#8] = .ok s ∧ decode (joinBytes 0x1F#8 0xFF#8) = .ok i ∧
      exec i s = .next u ∧ u.Running := ⟨_, _, _, rfl, rfl, rfl, rfl⟩
theorem witness_JumpGoesToItsAddress : ∃ nnn : Addr12, nnn = 0xFFF#12 := ⟨_, rfl⟩

end Sys2Proof.Tests
end

section
/-! The run status (spec R37, R283): what a step of a running machine returns, and that Faulted is terminal. -/

namespace Sys2Proof.Proofs

open Sys2Proof.Machine Sys2Proof.Laws

theorem outcome_running {s : State} (h : s.status = .running) : s.outcome = .completed s.drew s.diag := by
  simp [State.outcome, h]

theorem outcome_faulted {s : State} {r : FaultRecord} (h : s.status = .faulted r) : s.outcome = .failed r := by
  simp [State.outcome, h]

/-- A step of a running machine answers a running machine or a faulted one (R37). -/
theorem step_running_or_faulted {s : State} (hs : s.Running) :
    ∃ t, step s = .next t ∧ (t.Running ∨ ∃ r, t.status = .faulted r) := by
  obtain ⟨c, -, hstep⟩ | ⟨op, e, -, -, hstep⟩ | ⟨op, i, c, -, -, -, hstep⟩ | ⟨op, i, t, -, -, -, ht, hstep⟩ :=
    step_cases hs
  · exact ⟨_, hstep, .inr ⟨_, rfl⟩⟩
  · exact ⟨_, hstep, .inl hs⟩
  · exact ⟨_, hstep, .inr ⟨_, rfl⟩⟩
  · exact ⟨_, hstep, .inl (ht.status.trans hs)⟩

/-- Any number of steps leaves a faulted machine as it is (R283). -/
theorem runSteps_faulted {s : State} {r : FaultRecord} (h : s.status = .faulted r) (k : Nat) :
    runSteps k s = .next s := by
  induction k with
  | zero => rfl
  | succ k ih => rw [runSteps, step_faulted h]; exact ih

/-- Settles O17: the cases of a running step give the first half, induction on the number of steps the second. -/
theorem faultedIsTerminal : Obligations.FaultedIsTerminal := by
  refine ⟨fun s hs => ?_, fun s r hr k => ⟨runSteps_faulted hr k, outcome_faulted hr⟩⟩
  obtain ⟨t, hstep, ht | ⟨r, hr⟩⟩ := step_running_or_faulted hs
  · exact ⟨t, hstep, .inl ⟨ht, _, _, outcome_running ht⟩⟩
  · exact ⟨t, hstep, .inr ⟨r, hr, outcome_faulted hr⟩⟩

end Sys2Proof.Proofs
end

section
/-! What the operations of the machine read: each answers the same in two states that agree on the fields it reads. -/

namespace Sys2Proof.Proofs

open Sys2Proof.Machine

theorem memReadAll_congr {s t : State} (hm : t.mem = s.mem) (hc : t.cfg = s.cfg) (access : Access) (base n : Nat) :
    memReadAll t access base n = memReadAll s access base n := by
  induction n generalizing base with
  | zero => rfl
  | succ n ih => simp only [memReadAll, memRead, State.byteAt, hm, hc, ih]

theorem regBytesFrom_congr {s t : State} (hV : t.V = s.V) (x n : Nat) : regBytesFrom t x n = regBytesFrom s x n := by
  induction n generalizing x with
  | zero => rfl
  | succ n ih => simp only [regBytesFrom, State.getV, hV, ih]

theorem drawSprite_congr {s t : State} (hm : t.mem = s.mem) (hc : t.cfg = s.cfg) (hV : t.V = s.V) (hI : t.I = s.I)
    (hFB : t.FB = s.FB) (x y : Reg) (n : Nibble) : drawSprite x y n t = drawSprite x y n s := by
  simp only [drawSprite, effectiveAddress, State.getV, memReadAll_congr hm hc, hc, hV, hI, hFB]

/-- An update of the state that every register write passes through is passed through by the block write of FX65. -/
theorem setVs_comm {f : State → State} (hf : ∀ s x b, (f s).setV x b = f (s.setV x b)) (s : State) (x : Nat)
    (bs : List Byte) : (f s).setVs x bs = f (s.setVs x bs) := by
  induction bs generalizing s x with
  | nil => rfl
  | cons b bs ih => rw [State.setVs, hf, ih, State.setVs]

/-- An update of the state that leaves memory and parameters alone, and that a change of memory passes through, is
passed through by a block store. -/
theorem storeBytes_comm {f : State → State} {s : State} (hm : (f s).mem = s.mem) (hc : (f s).cfg = s.cfg)
    (hf : ∀ m, { f s with mem := m } = f { s with mem := m }) (base : Nat) (vs : List Byte) :
    storeBytes (f s) base vs = (storeBytes s base vs).map f := by
  have hw : memWriteAll (f s).cfg.glyphs (f s).mem base vs = memWriteAll s.cfg.glyphs s.mem base vs := by rw [hm, hc]
  unfold storeBytes
  rw [hw]
  cases memWriteAll s.cfg.glyphs s.mem base vs with
  | error c => rfl
  | ok m => exact congrArg Except.ok (hf m)

end Sys2Proof.Proofs
end

section
/-! The keys (spec R36): no instruction writes them, and only EX9E and EXA1 read them. -/

namespace Sys2Proof.Proofs

open Sys2Proof.Machine Sys2Proof.Laws

/-- No instruction changes the keys, whether it completes or faults. -/
theorem exec_key {i : Instr} {s t : State} (h : exec i s = .next t) : t.key = s.key := by
  obtain ⟨c, hc⟩ | ⟨u, hu, hk⟩ := exec_cases i s
  · obtain rfl : takeFault c _ s = t := Host.Outcome.next.inj (hc.symm.trans h)
    rfl
  · obtain rfl : u = t := Host.Outcome.next.inj (hu.symm.trans h)
    exact hk.key

@[simp] theorem setKeys_mem (k : Vector Bool 16) (s : State) : (setKeys k s).mem = s.mem := rfl
@[simp] theorem setKeys_V (k : Vector Bool 16) (s : State) : (setKeys k s).V = s.V := rfl
@[simp] theorem setKeys_I (k : Vector Bool 16) (s : State) : (setKeys k s).I = s.I := rfl
@[simp] theorem setKeys_FB (k : Vector Bool 16) (s : State) : (setKeys k s).FB = s.FB := rfl
@[simp] theorem setKeys_cfg (k : Vector Bool 16) (s : State) : (setKeys k s).cfg = s.cfg := rfl

theorem effectiveAddress_setKeys (k : Vector Bool 16) (s : State) (j : Nat) :
    effectiveAddress (setKeys k s) j = effectiveAddress s j := rfl

theorem memReadAll_setKeys (k : Vector Bool 16) (s : State) (access : Access) (base n : Nat) :
    memReadAll (setKeys k s) access base n = memReadAll s access base n :=
  memReadAll_congr (setKeys_mem k s) (setKeys_cfg k s) access base n

theorem regBytes_setKeys (k : Vector Bool 16) (s : State) (x : Reg) : regBytes (setKeys k s) x = regBytes s x :=
  regBytesFrom_congr (setKeys_V k s) 0 (regCount x)

theorem drawSprite_setKeys (k : Vector Bool 16) (s : State) (x y : Reg) (n : Nibble) :
    drawSprite x y n (setKeys k s) = drawSprite x y n s :=
  drawSprite_congr (setKeys_mem k s) (setKeys_cfg k s) (setKeys_V k s) (setKeys_I k s) (setKeys_FB k s) x y n

theorem setCollision_setKeys (k : Vector Bool 16) (s : State) (hit : Bool) :
    (setKeys k s).setCollision hit = setKeys k (s.setCollision hit) := by
  cases hit <;> rfl

theorem setVs_setKeys (k : Vector Bool 16) (s : State) (x : Nat) (bs : List Byte) :
    (setKeys k s).setVs x bs = setKeys k (s.setVs x bs) :=
  setVs_comm (fun _ _ _ => rfl) s x bs

theorem storeBytes_setKeys (k : Vector Bool 16) (s : State) (base : Nat) (vs : List Byte) :
    storeBytes (setKeys k s) base vs = (storeBytes s base vs).map (setKeys k) :=
  storeBytes_comm (setKeys_mem k s) (setKeys_cfg k s) (fun _ => rfl) base vs

/-- The stores of FX33 and FX55 pass a change of the keys through, whether they complete or fault. -/
theorem storeFromI_setKeys (i : Instr) (vs : List Byte) (k : Vector Bool 16) (s : State) :
    ∃ t, storeFromI i vs s = .next t ∧ storeFromI i vs (setKeys k s) = .next (setKeys k t) := by
  simp only [storeFromI, effectiveAddress_setKeys, storeBytes_setKeys]
  cases storeBytes s (effectiveAddress s 0) vs with
  | error c => exact ⟨_, rfl, rfl⟩
  | ok t => exact ⟨_, rfl, rfl⟩

/-- Every instruction but EX9E and EXA1 passes a change of the keys through: it answers the same state but for the keys,
and takes the same fault. -/
theorem exec_setKeys (i : Instr) (s : State) (k : Vector Bool 16) (h9E : ∀ x, i ≠ .opEX9E x)
    (hA1 : ∀ x, i ≠ .opEXA1 x) :
    ∃ t, exec i s = .next t ∧ exec i (setKeys k s) = .next (setKeys k t) := by
  cases i with
  | opEX9E x => exact absurd rfl (h9E x)
  | opEXA1 x => exact absurd rfl (hA1 x)
  | op00EE =>
    by_cases h : s.SP.val = 0
    · exact ⟨_, exec_00EE_empty h, exec_00EE_empty h⟩
    · have hpos : 0 < s.SP.val := Nat.pos_of_ne_zero h
      exact ⟨_, exec_00EE_ok hpos, exec_00EE_ok (s := setKeys k s) hpos⟩
  | op2NNN nnn =>
    by_cases h : s.SP.val < 16
    · exact ⟨_, exec_2NNN_ok nnn h, exec_2NNN_ok (s := setKeys k s) nnn h⟩
    · have hfull : s.SP.val = 16 := by omega
      exact ⟨_, exec_2NNN_full nnn hfull, exec_2NNN_full nnn hfull⟩
  | opFX33 x => exact storeFromI_setKeys (.opFX33 x) (decimalDigits (s.getV x)) k s
  | opFX55 x =>
    simp only [exec, execFX55, regBytes_setKeys]
    exact storeFromI_setKeys (.opFX55 x) (regBytes s x) k s
  | opFX65 x =>
    have hread := memReadAll_setKeys k s .read (effectiveAddress s 0) (regCount x)
    cases h : memReadAll s .read (effectiveAddress s 0) (regCount x) with
    | error c => exact ⟨_, exec_FX65_error h, exec_FX65_error (hread.trans h)⟩
    | ok bs =>
      refine ⟨_, exec_FX65_ok h, (exec_FX65_ok (hread.trans h)).trans ?_⟩
      rw [setVs_setKeys]; rfl
  | opDXYN x y n =>
    have hdraw := drawSprite_setKeys k s x y n
    cases h : drawSprite x y n s with
    | error c => exact ⟨_, exec_DXYN_error h, exec_DXYN_error (hdraw.trans h)⟩
    | ok c =>
      refine ⟨_, exec_DXYN_ok h, (exec_DXYN_ok (hdraw.trans h)).trans ?_⟩
      rw [setCollision_setKeys]; rfl
  | _ => exact ⟨_, rfl, rfl⟩

/-- Settles O27: no instruction writes the keys, every class but the two key skips passes a change of them through, and
`set_keys` is that change alone. -/
theorem keysAreReadByKeySkipsOnly : Obligations.KeysAreReadByKeySkipsOnly :=
  ⟨fun _ _ _ => exec_key, exec_setKeys, fun _ _ => rfl⟩

end Sys2Proof.Proofs
end

section
/-! The skips (spec R140 to R146): a skip writes pc and nothing else. -/

namespace Sys2Proof.Proofs

open Sys2Proof.Machine Sys2Proof.Laws

/-- A write of pc alone changes nothing else. -/
theorem frame_setPc (s : State) (w : Word) : Frame [] [] s (s.setPc w) where
  regs _ _ := rfl
  index _ := rfl
  memory _ _ := rfl
  stack _ := ⟨rfl, rfl⟩
  delayTimer _ := rfl
  soundTimer _ := rfl
  display _ := ⟨rfl, rfl, rfl⟩
  draws _ := rfl
  diag _ := rfl
  status := rfl
  key := rfl
  cfg := rfl

theorem skipIf_pc_toNat (s : State) (c : Bool) :
    (s.skipIf c).pc.toNat = (s.pc.toNat + if c then 4 else 2) % 65536 := by
  cases c <;> exact BitVec.toNat_add s.pc _

/-- An instruction that answers `skipIf` moves pc by the `n` bytes its condition selects, and changes nothing else
(R140). -/
theorem exec_skipIf {i : Instr} {s : State} {c : Bool} {n : Nat} (h : exec i s = .next (s.skipIf c))
    (hn : (if c then 4 else 2) = n) :
    ∃ t, exec i s = .next t ∧ t.pc.toNat = (s.pc.toNat + n) % 65536 ∧ Frame [] [] s t :=
  ⟨_, h, hn ▸ skipIf_pc_toNat s c, frame_setPc s _⟩

/-- The bytes a skip on equality moves by (R141, R143). -/
theorem skipBytes_eq (a b : Byte) :
    (if decide (a = b) then 4 else 2) = if a.toNat = b.toNat then 4 else 2 := by
  simp only [decide_eq_true_eq, BitVec.toNat_inj]

/-- The bytes a skip on inequality moves by (R142, R144). -/
theorem skipBytes_ne (a b : Byte) :
    (if decide (a ≠ b) then 4 else 2) = if a.toNat = b.toNat then 2 else 4 := by
  simp only [decide_eq_true_eq, BitVec.toNat_inj, ite_not]

/-- Settles O33: each of the four classes answers `skipIf` on its condition; its word is the packing of its operands. -/
theorem registerSkipsTestTheirCondition : Obligations.RegisterSkipsTestTheirCondition := by
  intro x y kk s
  refine ⟨⟨?_, ?_⟩, ⟨?_, ?_⟩, ⟨?_, ?_⟩, ?_, ?_⟩
  · exact packXK_toNat 0x3#4 x kk
  · exact exec_skipIf rfl (skipBytes_eq (s.getV x) kk)
  · exact packXK_toNat 0x4#4 x kk
  · exact exec_skipIf rfl (skipBytes_ne (s.getV x) kk)
  · exact packXYN_toNat 0x5#4 x y 0x0#4
  · exact exec_skipIf rfl (skipBytes_eq (s.getV x) (s.getV y))
  · exact packXYN_toNat 0x9#4 x y 0x0#4
  · exact exec_skipIf rfl (skipBytes_ne (s.getV x) (s.getV y))

end Sys2Proof.Proofs
end

section
/-! Register immediates (spec R160, R161): a load writes one register and pc, and nothing else. -/

namespace Sys2Proof.Proofs

open Sys2Proof.Machine Sys2Proof.Laws

/-- A write of one register, then pc + 2, changes nothing else. -/
theorem frame_setV_advance (s : State) (x : Reg) (b : Byte) : Frame [x] [] s (s.setV x b).advance where
  regs _ hr := getV_setV_other s b (List.ne_of_not_mem_cons hr)
  index _ := rfl
  memory _ _ := rfl
  stack _ := ⟨rfl, rfl⟩
  delayTimer _ := rfl
  soundTimer _ := rfl
  display _ := ⟨rfl, rfl, rfl⟩
  draws _ := rfl
  diag _ := rfl
  status := rfl
  key := rfl
  cfg := rfl

/-- An instruction that answers a register write and pc + 2 leaves that byte in that register, and changes nothing else;
the register may be VF (R22). -/
theorem exec_setV_advance {i : Instr} {s : State} {x : Reg} {b : Byte} (h : exec i s = .next (s.setV x b).advance) :
    ∃ t, exec i s = .next t ∧ t.getV x = b ∧ t.pc = s.pc + 2#16 ∧ Frame [x] [] s t :=
  ⟨_, h, getV_setV_same s x b, rfl, frame_setV_advance s x b⟩

/-- Settles O35: the byte written is KK itself. -/
theorem loadImmediateWritesTheByte : Obligations.LoadImmediateWritesTheByte :=
  fun x kk _ => ⟨packXK_toNat 0x6#4 x kk, exec_setV_advance rfl⟩

/-- Settles O36: the byte written is the sum of bytes, whose value is the sum modulo 256. -/
theorem addImmediateWrapsWithoutFlag : Obligations.AddImmediateWrapsWithoutFlag := by
  intro x kk s
  obtain ⟨t, hexec, hsum, hpc, hframe⟩ :=
    exec_setV_advance (i := .op7XKK x kk) (s := s) (b := s.getV x + kk) rfl
  have hwrap : (t.getV x).toNat = ((s.getV x).toNat + kk.toNat) % 256 := by
    rw [hsum, BitVec.toNat_add]
  exact ⟨packXK_toNat 0x7#4 x kk, t, hexec, hwrap, hpc, hframe⟩

end Sys2Proof.Proofs
end

section
/-! Copy and logic of two registers (spec R180 to R184): 8XY0 to 8XY3 write V[X] and pc, and no flag. -/

namespace Sys2Proof.Proofs

open Sys2Proof.Machine Sys2Proof.Laws

/-- The word of a class of group 8, with its sub-selector `n` in the low digit (R91). -/
theorem packXYN_group8_toNat (x y : Reg) (n : Nibble) :
    (packXYN 0x8#4 x y n).toNat = 0x8000 + n.toNat + x.toNat * 256 + y.toNat * 16 := by
  have hpack : (packXYN 0x8#4 x y n).toNat = 0x8000 + x.toNat * 256 + y.toNat * 16 + n.toNat :=
    packXYN_toNat 0x8#4 x y n
  omega

/-- A flagless ALU class leaves in V[X] its operation on V[X] and V[Y], both as they were before, and changes nothing
else but pc; VF changes only where X names it (R180). -/
theorem exec_aluPlain {i : Instr} {f : Byte → Byte → Byte} {x y : Reg} {s : State}
    (h : exec i s = aluPlain f x y s) :
    ∃ t, exec i s = .next t ∧ t.pc = s.pc + 2#16 ∧ Frame [x] [] s t ∧ t.getV x = f (s.getV x) (s.getV y) := by
  obtain ⟨t, hexec, hvalue, hpc, hframe⟩ := exec_setV_advance (b := f (s.getV x) (s.getV y)) h
  exact ⟨t, hexec, hpc, hframe, hvalue⟩

/-- Where the operation of a flagless ALU class acts bit by bit, so does the class. -/
theorem exec_aluPlain_bitwise {i : Instr} {f : Byte → Byte → Byte} {x y : Reg} {s : State}
    (g : Bool → Bool → Bool) (h : exec i s = aluPlain f x y s)
    (hf : ∀ a b j, (f a b).getLsbD j = g (a.getLsbD j) (b.getLsbD j)) :
    ∃ t, exec i s = .next t ∧ t.pc = s.pc + 2#16 ∧ Frame [x] [] s t ∧
      ∀ j, (t.getV x).getLsbD j = g ((s.getV x).getLsbD j) ((s.getV y).getLsbD j) := by
  obtain ⟨t, hexec, hpc, hframe, hvalue⟩ := exec_aluPlain h
  exact ⟨t, hexec, hpc, hframe, fun j => hvalue ▸ hf _ _ j⟩

/-- Settles O38: each of the four classes is `aluPlain` of its operation, which for OR, AND and XOR acts bit by bit. -/
theorem copyAndLogicWriteNoFlag : Obligations.CopyAndLogicWriteNoFlag := by
  intro x y s
  refine ⟨⟨?_, ?_⟩, ⟨?_, ?_⟩, ⟨?_, ?_⟩, ?_, ?_⟩
  · exact packXYN_group8_toNat x y 0x0#4
  · exact exec_aluPlain (f := fun _ b => b) rfl
  · exact packXYN_group8_toNat x y 0x1#4
  · exact exec_aluPlain_bitwise or rfl fun _ _ _ => BitVec.getLsbD_or
  · exact packXYN_group8_toNat x y 0x2#4
  · exact exec_aluPlain_bitwise and rfl fun _ _ _ => BitVec.getLsbD_and
  · exact packXYN_group8_toNat x y 0x3#4
  · exact exec_aluPlain_bitwise xor rfl fun _ _ _ => BitVec.getLsbD_xor

end Sys2Proof.Proofs
end

section
/-! Loads of the index register (spec R210 to R212): ANNN, FX1E and FX29 write I and pc, and no flag. -/

namespace Sys2Proof.Proofs

open Sys2Proof.Machine Sys2Proof.Laws

/-- A write of I, then pc + 2, changes nothing else. -/
theorem frame_setI_advance (s : State) (w : Word) : Frame [] [.index] s (s.setI w).advance where
  regs _ _ := rfl
  index h := absurd List.mem_cons_self h
  memory _ _ := rfl
  stack _ := ⟨rfl, rfl⟩
  delayTimer _ := rfl
  soundTimer _ := rfl
  display _ := ⟨rfl, rfl, rfl⟩
  draws _ := rfl
  diag _ := rfl
  status := rfl
  key := rfl
  cfg := rfl

/-- An instruction that answers a write of I and pc + 2 leaves in I the address of value `n` that was written, and
changes nothing else. -/
theorem exec_setI_advance {i : Instr} {s : State} {w : Word} {n : Nat} (h : exec i s = .next (s.setI w).advance)
    (hn : w.toNat = n) :
    ∃ t, exec i s = .next t ∧ t.I.toNat = n ∧ t.pc = s.pc + 2#16 ∧ Frame [] [.index] s t :=
  ⟨_, h, hn, rfl, frame_setI_advance s w⟩

/-- The word of a class of group F, with its sub-selector byte `sub` in the low byte (R91). -/
theorem packXK_groupF_toNat (x : Reg) (sub : Byte) :
    (packXK 0xF#4 x sub).toNat = 0xF000 + sub.toNat + x.toNat * 256 := by
  have hpack : (packXK 0xF#4 x sub).toNat = 0xF000 + x.toNat * 256 + sub.toNat := packXK_toNat 0xF#4 x sub
  omega

theorem addrOperand_toNat (nnn : Addr12) : (addrOperand nnn).toNat = nnn.toNat :=
  BitVec.toNat_setWidth_of_le (by decide)

theorem byteOperand_toNat (b : Byte) : (byteOperand b).toNat = b.toNat :=
  BitVec.toNat_setWidth_of_le (by decide)

/-- FX1E's sum is taken modulo 65536 (R211). -/
theorem add_byteOperand_toNat (w : Word) (b : Byte) : (w + byteOperand b).toNat = (w.toNat + b.toNat) % 65536 := by
  rw [BitVec.toNat_add, byteOperand_toNat]

/-- Five times a byte fits in a word, so FX29's product is exact (R212). -/
theorem byteOperand_mul_five_toNat (b : Byte) : (byteOperand b * 5#16).toNat = b.toNat * 5 := by
  have hmul : (byteOperand b * 5#16).toNat = b.toNat * 5 % 65536 := by
    rw [BitVec.toNat_mul, byteOperand_toNat]
    rfl
  have hfits : b.toNat < 256 := b.isLt
  omega

/-- Settles O44: the word written to I is NNN itself. -/
theorem loadIndexWritesTheAddress : Obligations.LoadIndexWritesTheAddress :=
  fun nnn _ => ⟨packA_toNat 0xA#4 nnn, exec_setI_advance rfl (addrOperand_toNat nnn)⟩

/-- Settles O45: the word written to I is the sum of words, and the frame lists no register, so VF is kept. -/
theorem addToIndexWrapsWithoutFlag : Obligations.AddToIndexWrapsWithoutFlag :=
  fun x s => ⟨packXK_groupF_toNat x 0x1E#8, exec_setI_advance rfl (add_byteOperand_toNat s.I (s.getV x))⟩

/-- Settles O46: the word written to I is five times the byte of V[X], all eight bits of it. -/
theorem glyphPointerIsFiveTimesTheDigit : Obligations.GlyphPointerIsFiveTimesTheDigit :=
  fun x s => ⟨packXK_groupF_toNat x 0x29#8, exec_setI_advance rfl (byteOperand_mul_five_toNat (s.getV x))⟩

end Sys2Proof.Proofs
end

section
/-! Timer access (spec R260 to R262): FX07 copies DT to a register, FX15 and FX18 a register to a timer; the tick of the
same step comes after (R294). -/

namespace Sys2Proof.Proofs

open Sys2Proof.Machine Sys2Proof.Laws

/-- A write of the timers, then pc + 2, changes nothing else; a timer the frame does not free gets its own value back. -/
theorem frame_setTimers_advance {free : List Part} {s : State} {d e : Byte} (hd : Part.delayTimer ∉ free → d = s.DT)
    (he : Part.soundTimer ∉ free → e = s.ST) : Frame [] free s ((s.setDT d).setST e).advance where
  regs _ _ := rfl
  index _ := rfl
  memory _ _ := rfl
  stack _ := ⟨rfl, rfl⟩
  delayTimer := hd
  soundTimer := he
  display _ := ⟨rfl, rfl, rfl⟩
  draws _ := rfl
  diag _ := rfl
  status := rfl
  key := rfl
  cfg := rfl

theorem exec_FX15_eq_setTimers (x : Reg) (s : State) :
    exec (.opFX15 x) s = .next ((s.setDT (s.getV x)).setST s.ST).advance := rfl

theorem exec_FX18_eq_setTimers (x : Reg) (s : State) :
    exec (.opFX18 x) s = .next ((s.setDT s.DT).setST (s.getV x)).advance := rfl

/-- FX07 writes to V[X] the DT from before the tick; the tick then counts down that same DT (R260). -/
theorem exec_FX07_then_tick (x : Reg) (s : State) :
    ∃ t, exec (.opFX07 x) s = .next t ∧ t.getV x = s.DT ∧ t.pc = s.pc + 2#16 ∧ Frame [x] [] s t ∧
      (tick t).DT.toNat = s.DT.toNat - 1 := by
  obtain ⟨t, hexec, hvalue, hpc, hframe⟩ := exec_setV_advance (i := .opFX07 x) (s := s) (b := s.DT) rfl
  have htick : (tick t).DT.toNat = s.DT.toNat - 1 := by
    rw [tick_DT_toNat, hframe.delayTimer List.not_mem_nil]
  exact ⟨t, hexec, hvalue, hpc, hframe, htick⟩

/-- FX15 writes V[X] to DT and leaves ST; the tick then counts down the byte just written (R261). -/
theorem exec_FX15_then_tick (x : Reg) (s : State) :
    ∃ t, exec (.opFX15 x) s = .next t ∧ t.DT = s.getV x ∧ t.pc = s.pc + 2#16 ∧ Frame [] [.delayTimer] s t ∧
      (tick t).DT.toNat = (s.getV x).toNat - 1 :=
  ⟨_, exec_FX15_eq_setTimers x s, rfl, rfl,
    frame_setTimers_advance (fun h => absurd List.mem_cons_self h) (fun _ => rfl), tick_DT_toNat _⟩

/-- FX18 writes V[X] to ST and leaves DT; the tick then counts down the byte just written (R262). -/
theorem exec_FX18_then_tick (x : Reg) (s : State) :
    ∃ t, exec (.opFX18 x) s = .next t ∧ t.ST = s.getV x ∧ t.pc = s.pc + 2#16 ∧ Frame [] [.soundTimer] s t ∧
      (tick t).ST.toNat = (s.getV x).toNat - 1 :=
  ⟨_, exec_FX18_eq_setTimers x s, rfl, rfl,
    frame_setTimers_advance (fun _ => rfl) (fun h => absurd List.mem_cons_self h), tick_ST_toNat _⟩

/-- Settles O56: each word is the packing of X and its sub-selector byte; each class copies the byte it names, and the
tick after it counts down by one, down to 0. -/
theorem timerAccessCopiesTheByte : Obligations.TimerAccessCopiesTheByte :=
  fun x s =>
    ⟨⟨packXK_groupF_toNat x 0x07#8, exec_FX07_then_tick x s⟩,
      ⟨packXK_groupF_toNat x 0x15#8, exec_FX15_then_tick x s⟩,
      ⟨packXK_groupF_toNat x 0x18#8, exec_FX18_then_tick x s⟩⟩

end Sys2Proof.Proofs
end

section
/-! The frame output (spec R297): what `current_frame` replies, and the one flag it clears. -/

namespace Sys2Proof.Proofs

open Sys2Proof.Machine Sys2Proof.Laws

theorem hostCall_currentFrame_eq (s : State) :
    hostCall .currentFrame s = .next (.frame s.FB, { s with dirty := false }) := rfl

/-- Clearing dirty loses nothing but dirty: put back, it gives the state from before, whatever its status (R297). -/
theorem clearDirty_restoreDirty (s : State) : s = { ({ s with dirty := false } : State) with dirty := s.dirty } := rfl

/-- Settles O59: the reply is the framebuffer itself, and the state after differs from the one before in dirty alone. -/
theorem currentFrameOnlyClearsDirty : Obligations.CurrentFrameOnlyClearsDirty :=
  fun s => ⟨s.FB, { s with dirty := false }, hostCall_currentFrame_eq s, fun _ => rfl, rfl, clearDirty_restoreDirty s⟩

end Sys2Proof.Proofs
end

section
/-! The decoder and the encoder (spec R91 to R99): each undoes the other; which words decode; the opcode map, row by
row. -/

namespace Sys2Proof.Proofs

open Sys2Proof.Laws

/-! ### Decoding an encoded instruction -/

/-- The two classes of format Z are literal words; in every other class the fields of the packed word choose the arm
of the decode procedure and give the operands back (R91, R93). -/
theorem decode_encode (i : Instr) : decode (encode i) = .ok i := by
  cases i with
  | op00E0 => rfl
  | op00EE => rfl
  | _ => simp [encode, decode, decodeAlu, decodeMisc]

/-- Settles O1: the bytes of an instruction join to its word, which decodes to it. -/
theorem decodeOfEncodeIsIdentity : Obligations.DecodeOfEncodeIsIdentity := by
  refine fun i _ => ⟨decode_encode i, fun rest => ?_⟩
  simp only [encodeBytes, List.cons_append, List.nil_append, decodeBytes, joinBytes_high_low, decode_encode]

/-! ### Encoding a decoded word -/

theorem packA_of_group {op : Word} {c : Nibble} (hg : opGroup op = c) : packA c (opNNN op) = op :=
  hg ▸ packA_fields op

theorem packXK_of_group {op : Word} {c : Nibble} (hg : opGroup op = c) : packXK c (opX op) (opKK op) = op :=
  hg ▸ packXK_fields op

theorem packXK_of_group_byte {op : Word} {c : Nibble} {sub : Byte} (hg : opGroup op = c) (hk : opKK op = sub) :
    packXK c (opX op) sub = op :=
  hk ▸ packXK_of_group hg

theorem packXYN_of_group {op : Word} {c : Nibble} (hg : opGroup op = c) :
    packXYN c (opX op) (opY op) (opN op) = op :=
  hg ▸ packXYN_fields op

theorem packXYN_of_group_digit {op : Word} {c n : Nibble} (hg : opGroup op = c) (hn : opN op = n) :
    packXYN c (opX op) (opY op) n = op :=
  hn ▸ packXYN_of_group hg

theorem encode_of_decodeAlu {op : Word} {i : Instr} (hg : opGroup op = 0x8#4) (h : decodeAlu op = .ok i) :
    encode i = op := by
  unfold decodeAlu at h
  split at h <;> cases h <;> exact packXYN_of_group_digit hg ‹_›

theorem encode_of_decodeMisc {op : Word} {i : Instr} (hg : opGroup op = 0xF#4) (h : decodeMisc op = .ok i) :
    encode i = op := by
  unfold decodeMisc at h
  split_ifs at h <;> cases h <;> exact packXK_of_group_byte hg ‹_›

/-- Every arm of the decode procedure that answers an instruction has found the class digits of that instruction,
and takes its operands from the fields they are packed into: no bit is ignored (R95). -/
theorem encode_of_decode {op : Word} {i : Instr} (h : decode op = .ok i) : encode i = op := by
  unfold decode at h
  split at h
  case h_1 => split_ifs at h <;> cases h <;> exact Eq.symm ‹_›
  case h_2 hg | h_3 hg | h_11 hg | h_12 hg => cases h; exact packA_of_group hg
  case h_4 hg | h_5 hg | h_7 hg | h_8 hg | h_13 hg => cases h; exact packXK_of_group hg
  case h_6 hg | h_10 hg => split_ifs at h with hn; cases h; exact packXYN_of_group_digit hg hn
  case h_9 hg => exact encode_of_decodeAlu hg h
  case h_14 hg => cases h; exact packXYN_of_group hg
  case h_15 hg => split_ifs at h <;> cases h <;> exact packXK_of_group_byte hg ‹_›
  case h_16 => exact encode_of_decodeMisc (by simp only [imp_false] at *; bv_omega) h

/-- Settles O2: a word that decodes is written back from its fields, and the two words of D34 are refused by
evaluation. -/
theorem encodeOfDecodeIsIdentity : Obligations.EncodeOfDecodeIsIdentity :=
  ⟨fun _ _ => encode_of_decode, rfl, rfl⟩

/-! ### What a row of the opcode map selects, in digits -/

theorem and_maskXK (op : Word) (m : Byte) :
    op &&& packXK 0xF#4 0x0#4 m = packXK (opGroup op) 0x0#4 (opKK op &&& m) := by
  have hand : packXK (opGroup op) (opX op) (opKK op) &&& packXK 0xF#4 0x0#4 m =
      packXK (opGroup op &&& 0xF#4) (opX op &&& 0x0#4) (opKK op &&& m) := by
    unfold packXK
    exact BitVec.and_append.trans (congrArg (· ++ (opKK op &&& m)) BitVec.and_append)
  rwa [packXK_fields, BitVec.and_zero, show opGroup op &&& 0xF#4 = opGroup op from BitVec.and_allOnes] at hand

theorem selects_maskXK {op mask : Word} {m : Byte} (p : Word) (c : String) (hm : mask = packXK 0xF#4 0x0#4 m) :
    (⟨c, p, mask⟩ : OpcodeRow).selects op = true ↔ op.toNat / 4096 * 4096 + (opKK op &&& m).toNat = p.toNat := by
  have hzero : (0x0#4).toNat * 256 = 0 := rfl
  rw [OpcodeRow.selects, beq_iff_eq, hm, and_maskXK, ← BitVec.toNat_inj, packXK_toNat, opGroup_toNat, hzero,
    Nat.add_zero]

/-- A row of format A, XK or XYN fixes the group alone. -/
theorem selects_group (op p : Word) (c : String) :
    (⟨c, p, 0xF000#16⟩ : OpcodeRow).selects op = true ↔ op.toNat / 4096 * 4096 = p.toNat := by
  have hzero : (opKK op &&& 0x00#8).toNat = 0 := by rw [BitVec.and_zero]; rfl
  exact (selects_maskXK (m := 0x00#8) p c rfl).trans (by rw [hzero, Nat.add_zero])

/-- A row of format XY fixes the group and the low digit. -/
theorem selects_group_digit (op p : Word) (c : String) :
    (⟨c, p, 0xF00F#16⟩ : OpcodeRow).selects op = true ↔ op.toNat / 4096 * 4096 + op.toNat % 16 = p.toNat := by
  have hdigit : (opKK op &&& 0x0F#8).toNat = op.toNat % 16 := by
    rw [BitVec.toNat_and, opKK_toNat, show (0x0F#8).toNat = 2 ^ 4 - 1 from rfl, Nat.and_two_pow_sub_one_eq_mod]
    omega
  exact (selects_maskXK (m := 0x0F#8) p c rfl).trans (by rw [hdigit])

/-- A row of format XS fixes the group and the low byte. -/
theorem selects_group_byte (op p : Word) (c : String) :
    (⟨c, p, 0xF0FF#16⟩ : OpcodeRow).selects op = true ↔ op.toNat / 4096 * 4096 + op.toNat % 256 = p.toNat := by
  have hbyte : opKK op &&& 0xFF#8 = opKK op := BitVec.and_allOnes
  exact (selects_maskXK (m := 0xFF#8) p c rfl).trans (by rw [hbyte, opKK_toNat])

/-- A row of format Z fixes the whole word. -/
theorem selects_word (op p : Word) (c : String) :
    (⟨c, p, 0xFFFF#16⟩ : OpcodeRow).selects op = true ↔ op.toNat = p.toNat := by
  have hand : op &&& 0xFFFF#16 = op := BitVec.and_allOnes
  rw [OpcodeRow.selects, beq_iff_eq, hand, BitVec.toNat_inj]

/-! ### The words of no class -/

/-- The digits of a word that no class has, group by group (R98). -/
def FallbackDigits (op : Word) : Prop :=
  (op.toNat / 4096 = 0x0 ∧ op.toNat ≠ 0x00E0 ∧ op.toNat ≠ 0x00EE) ∨
  (op.toNat / 4096 = 0x5 ∧ op.toNat % 16 ≠ 0) ∨
  (op.toNat / 4096 = 0x8 ∧ op.toNat % 16 ∈ [0x8, 0x9, 0xA, 0xB, 0xC, 0xD, 0xF]) ∨
  (op.toNat / 4096 = 0x9 ∧ op.toNat % 16 ≠ 0) ∨
  (op.toNat / 4096 = 0xE ∧ op.toNat % 256 ∉ [0x9E, 0xA1]) ∨
  (op.toNat / 4096 = 0xF ∧ op.toNat % 256 ∉ [0x07, 0x15, 0x18, 0x1E, 0x29, 0x33, 0x55, 0x65])

/-- No row selects a word exactly when it has those digits: in each group the rows are compared with the list of R98. -/
theorem wordWellFormed_eq_false_iff (op : Word) : wordWellFormed op = false ↔ FallbackDigits op := by
  have hlt := op.isLt
  have hgroup : op.toNat / 4096 < 16 := by omega
  rw [Bool.eq_false_iff]
  simp only [wordWellFormed, opcodeMap, FallbackDigits, List.any_append, List.any_cons, List.any_nil, Bool.or_eq_true,
    ne_eq, selects_group, selects_group_digit, selects_group_byte, selects_word, BitVec.toNat_ofNat, Nat.reducePow,
    Nat.reduceMod, Bool.false_eq_true, List.mem_cons, List.not_mem_nil, or_false]
  generalize hg : op.toNat / 4096 = g at *
  interval_cases g <;> simp <;> omega

theorem decodeAlu_error {op : Word} {e : DecodeReject} (h : decodeAlu op = .error e) :
    e = .unrecognized op ∧ op.toNat % 16 ∈ [0x8, 0x9, 0xA, 0xB, 0xC, 0xD, 0xF] := by
  have hdigit := opN_toNat op
  unfold decodeAlu at h
  split at h <;> cases h
  refine ⟨rfl, ?_⟩
  simp only [List.mem_cons, List.not_mem_nil, or_false, imp_false] at *
  bv_omega

theorem decodeMisc_error {op : Word} {e : DecodeReject} (h : decodeMisc op = .error e) :
    e = .unrecognized op ∧ op.toNat % 256 ∉ [0x07, 0x15, 0x18, 0x1E, 0x29, 0x33, 0x55, 0x65] := by
  have hbyte := opKK_toNat op
  unfold decodeMisc at h
  split_ifs at h
  cases h
  refine ⟨rfl, ?_⟩
  simp only [List.mem_cons, List.not_mem_nil, or_false]
  bv_omega

/-- The decoder refuses only such words, and as unrecognized (R96, R98). -/
theorem decode_error {op : Word} {e : DecodeReject} (h : decode op = .error e) :
    e = .unrecognized op ∧ FallbackDigits op := by
  have hgroup := opGroup_toNat op
  have hdigit := opN_toNat op
  have hbyte := opKK_toNat op
  unfold decode at h
  split at h
  case h_1 hg =>
    split_ifs at h with h0 h1
    cases h
    exact ⟨rfl, .inl (by bv_omega)⟩
  case h_6 hg =>
    split_ifs at h with hn
    cases h
    exact ⟨rfl, .inr (.inl (by bv_omega))⟩
  case h_9 hg =>
    obtain ⟨he, hn⟩ := decodeAlu_error h
    exact ⟨he, .inr (.inr (.inl ⟨by bv_omega, hn⟩))⟩
  case h_10 hg =>
    split_ifs at h with hn
    cases h
    exact ⟨rfl, .inr (.inr (.inr (.inl (by bv_omega))))⟩
  case h_15 hg =>
    split_ifs at h with h0 h1
    cases h
    refine ⟨rfl, .inr (.inr (.inr (.inr (.inl ⟨by bv_omega, ?_⟩))))⟩
    simp only [List.mem_cons, List.not_mem_nil, or_false]
    bv_omega
  case h_16 =>
    obtain ⟨he, hk⟩ := decodeMisc_error h
    exact ⟨he, .inr (.inr (.inr (.inr (.inr ⟨by simp only [imp_false] at *; bv_omega, hk⟩))))⟩
  all_goals cases h

/-- Every instruction has its row, which selects its word. -/
theorem exists_row_selects_encode (i : Instr) : ∃ r ∈ opcodeMap, r.cls = i.cls ∧ r.selects (encode i) = true := by
  simp only [opcodeMap, List.cons_append, List.nil_append, List.exists_mem_cons_iff]
  cases i <;>
    simp only [Instr.cls, String.reduceEq, false_and, false_or, true_and, List.not_mem_nil, exists_false, or_false,
      selects_group, selects_group_digit, selects_group_byte, selects_word, encode, packA_toNat, packXK_toNat,
      packXYN_toNat, BitVec.toNat_ofNat, Nat.reducePow, Nat.reduceMod] <;>
    omega

theorem exists_row_of_decode {op : Word} {i : Instr} (h : decode op = .ok i) :
    ∃ r ∈ opcodeMap, r.cls = i.cls ∧ r.selects op = true :=
  encode_of_decode h ▸ exists_row_selects_encode i

theorem wordWellFormed_of_selects {op : Word} {r : OpcodeRow} (hr : r ∈ opcodeMap) (h : r.selects op = true) :
    wordWellFormed op = true :=
  List.any_eq_true.2 ⟨r, hr, h⟩

/-- A word is refused exactly when no row selects it (R96, R99). -/
theorem wordWellFormed_eq_false_iff_decode (op : Word) :
    wordWellFormed op = false ↔ decode op = .error (.unrecognized op) := by
  refine ⟨fun hw => ?_, fun hd => (wordWellFormed_eq_false_iff op).2 (decode_error hd).2⟩
  cases hd : decode op with
  | error e => rw [(decode_error hd).1]
  | ok i =>
    obtain ⟨r, hr, -, hsel⟩ := exists_row_of_decode hd
    rw [wordWellFormed_of_selects hr hsel] at hw
    cases hw

/-- Settles O4: both sides say that no row of the opcode map selects the word. -/
theorem fallbackWordsByGroup : Obligations.FallbackWordsByGroup :=
  fun op => (wordWellFormed_eq_false_iff_decode op).symm.trans (wordWellFormed_eq_false_iff op)

/-! ### The opcode map -/

/-- The match bits of two different rows differ at a bit that both fix (R94). -/
theorem opcodeMap_disjoint : ∀ r ∈ opcodeMap, ∀ q ∈ opcodeMap,
    r.pattern &&& q.mask = q.pattern &&& r.mask → r = q := by
  decide

/-- Two rows of one class are one row. -/
theorem opcodeMap_cls_injective : ∀ r ∈ opcodeMap, ∀ q ∈ opcodeMap, r.cls = q.cls → r = q := by
  decide

/-- No word matches two rows. -/
theorem row_unique {op : Word} {r q : OpcodeRow} (hr : r ∈ opcodeMap) (hq : q ∈ opcodeMap)
    (hrsel : r.selects op = true) (hqsel : q.selects op = true) : r = q := by
  rw [OpcodeRow.selects, beq_iff_eq] at hrsel hqsel
  apply opcodeMap_disjoint r hr q hq
  rw [← hrsel, ← hqsel, BitVec.and_assoc, BitVec.and_assoc, BitVec.and_comm r.mask]

theorem selects_iff_decode {op : Word} {r : OpcodeRow} (hr : r ∈ opcodeMap) :
    r.selects op = true ↔ ∃ i, decode op = .ok i ∧ i.cls = r.cls := by
  constructor
  · intro hsel
    cases hd : decode op with
    | error e =>
      have hw := (wordWellFormed_eq_false_iff op).2 (decode_error hd).2
      rw [wordWellFormed_of_selects hr hsel] at hw
      cases hw
    | ok i =>
      obtain ⟨q, hq, hcls, hqsel⟩ := exists_row_of_decode hd
      exact ⟨i, rfl, row_unique hr hq hsel hqsel ▸ hcls.symm⟩
  · rintro ⟨i, hd, hcls⟩
    obtain ⟨q, hq, hqcls, hqsel⟩ := exists_row_of_decode hd
    exact opcodeMap_cls_injective q hq r hr (hqcls.trans hcls) ▸ hqsel

/-- Settles O3: a word that decodes has the row of its class and, since rows do not overlap, no other. -/
theorem decoderFollowsOpcodeMap : Obligations.DecoderFollowsOpcodeMap :=
  ⟨fun _ _ => selects_iff_decode, fun _ _ _ => row_unique, wordWellFormed_eq_false_iff_decode⟩

/-- Settles O5: each word is evaluated. -/
theorem sampleWordsDecode : Obligations.SampleWordsDecode :=
  ⟨rfl, rfl, rfl, rfl, rfl, rfl, rfl, rfl, rfl⟩

end Sys2Proof.Proofs
end

section
/-! Frames of the single updates of the state, and how they compose: what an instruction leaves unchanged is read
off the updates it makes. -/

namespace Sys2Proof.Proofs

open Sys2Proof.Machine Sys2Proof.Laws

/-- Two updates one after the other may change what either of them may. -/
theorem frame_trans {r r' : List Reg} {f f' : List Part} {s t u : State} (h : Frame r f s t) (h' : Frame r' f' t u) :
    Frame (r ++ r') (f ++ f') s u := by
  have hl {p : Part} (hp : p ∉ f ++ f') : p ∉ f := fun hm => hp (List.mem_append_left _ hm)
  have hr {p : Part} (hp : p ∉ f ++ f') : p ∉ f' := fun hm => hp (List.mem_append_right _ hm)
  exact {
    regs := fun x hx => (h'.regs x fun hm => hx (List.mem_append_right _ hm)).trans
      (h.regs x fun hm => hx (List.mem_append_left _ hm))
    index := fun hp => (h'.index (hr hp)).trans (h.index (hl hp))
    memory := fun hp a => (h'.memory (hr hp) a).trans (h.memory (hl hp) a)
    stack := fun hp => ⟨(h'.stack (hr hp)).1.trans (h.stack (hl hp)).1, (h'.stack (hr hp)).2.trans (h.stack (hl hp)).2⟩
    delayTimer := fun hp => (h'.delayTimer (hr hp)).trans (h.delayTimer (hl hp))
    soundTimer := fun hp => (h'.soundTimer (hr hp)).trans (h.soundTimer (hl hp))
    display := fun hp => by
      obtain ⟨hfb, hdirty, hdrew⟩ := h.display (hl hp)
      obtain ⟨hfb', hdirty', hdrew'⟩ := h'.display (hr hp)
      exact ⟨hfb'.trans hfb, hdirty'.trans hdirty, hdrew'.trans hdrew⟩
    draws := fun hp => (h'.draws (hr hp)).trans (h.draws (hl hp))
    diag := fun hp => (h'.diag (hr hp)).trans (h.diag (hl hp))
    status := h'.status.trans h.status
    key := h'.key.trans h.key
    cfg := h'.cfg.trans h.cfg }

/-- A frame that lists more registers says less. -/
theorem frame_mono_regs {r r' : List Reg} {f : List Part} {s t : State} (h : Frame r f s t) (hr : r ⊆ r') :
    Frame r' f s t :=
  { h with regs := fun x hx => h.regs x fun hm => hx (hr hm) }

/-- pc + 2 after an update changes nothing else. -/
theorem frame_advance {r : List Reg} {f : List Part} {s t : State} (h : Frame r f s t) : Frame r f s t.advance := by
  have hadvance := frame_trans h (frame_setPc t (t.pc + 2#16))
  rwa [List.append_nil, List.append_nil] at hadvance

theorem frame_setV (s : State) (x : Reg) (b : Byte) : Frame [x] [] s (s.setV x b) where
  regs _ hr := getV_setV_other s b (List.ne_of_not_mem_cons hr)
  index _ := rfl
  memory _ _ := rfl
  stack _ := ⟨rfl, rfl⟩
  delayTimer _ := rfl
  soundTimer _ := rfl
  display _ := ⟨rfl, rfl, rfl⟩
  draws _ := rfl
  diag _ := rfl
  status := rfl
  key := rfl
  cfg := rfl

theorem frame_setMem (s : State) (m : Memory) : Frame [] [.memory] s { s with mem := m } where
  regs _ _ := rfl
  index _ := rfl
  memory h := absurd List.mem_cons_self h
  stack _ := ⟨rfl, rfl⟩
  delayTimer _ := rfl
  soundTimer _ := rfl
  display _ := ⟨rfl, rfl, rfl⟩
  draws _ := rfl
  diag _ := rfl
  status := rfl
  key := rfl
  cfg := rfl

theorem frame_setStack (s : State) (slots : Vector Word 16) (sp : Fin 17) :
    Frame [] [.stack] s { s with stack := slots, SP := sp } where
  regs _ _ := rfl
  index _ := rfl
  memory _ _ := rfl
  stack h := absurd List.mem_cons_self h
  delayTimer _ := rfl
  soundTimer _ := rfl
  display _ := ⟨rfl, rfl, rfl⟩
  draws _ := rfl
  diag _ := rfl
  status := rfl
  key := rfl
  cfg := rfl

theorem frame_present (s : State) (fb : Framebuffer) : Frame [] [.display] s (s.present fb) where
  regs _ _ := rfl
  index _ := rfl
  memory _ _ := rfl
  stack _ := ⟨rfl, rfl⟩
  delayTimer _ := rfl
  soundTimer _ := rfl
  display h := absurd List.mem_cons_self h
  draws _ := rfl
  diag _ := rfl
  status := rfl
  key := rfl
  cfg := rfl

theorem frame_rand (s : State) : Frame [] [.draws] s s.rand.2 where
  regs _ _ := rfl
  index _ := rfl
  memory _ _ := rfl
  stack _ := ⟨rfl, rfl⟩
  delayTimer _ := rfl
  soundTimer _ := rfl
  display _ := ⟨rfl, rfl, rfl⟩
  draws h := absurd List.mem_cons_self h
  diag _ := rfl
  status := rfl
  key := rfl
  cfg := rfl

/-- The collision write changes VF or nothing. -/
theorem frame_setCollision (s : State) (hit : Bool) : Frame [flagReg] [] s (s.setCollision hit) := by
  cases hit with
  | false => exact frame_mono_regs (frame_setPc s s.pc) (List.nil_subset _)
  | true => exact frame_setV s flagReg 0x01#8

/-- The block load of FX65 changes the registers it writes and nothing else. -/
theorem frame_setVs (s : State) (x : Nat) (bs : List Byte) :
    Frame ((List.range' x bs.length).map (BitVec.ofNat 4)) [] s (s.setVs x bs) := by
  induction bs generalizing s x with
  | nil => exact frame_setPc s s.pc
  | cons b bs ih => exact frame_trans (frame_setV s (BitVec.ofNat 4 x) b) (ih _ _)

end Sys2Proof.Proofs
end

section
/-! Control transfer (spec R121 to R124): what each class leaves in pc and on the stack, and where the next fetch
faults. -/

namespace Sys2Proof.Proofs

open Sys2Proof.Machine Sys2Proof.Laws

/-- Settles O28: pc takes the address of NNN unchecked, and 0xFFF has no second byte to fetch. -/
theorem jumpGoesToItsAddress : Obligations.JumpGoesToItsAddress := by
  intro nnn s
  refine ⟨packA_toNat 0x1#4 nnn, _, rfl, addrOperand_toNat nnn, frame_setPc s _, ?_⟩
  rintro rfl
  exact fetchWord_error (s := s.setPc (addrOperand 0xFFF#12)) (show 4096 ≤ (addrOperand 0xFFF#12).toNat + 1 by decide)

/-- V0 + NNN is below 2^16, so the sum of words is exact (R124). -/
theorem indexedTarget_toNat (b : Byte) (nnn : Addr12) :
    (byteOperand b + addrOperand nnn).toNat = b.toNat + nnn.toNat := by
  rw [BitVec.toNat_add, byteOperand_toNat, addrOperand_toNat]
  omega

/-- Settles O31: pc takes the exact sum, and from 0xFFF on some byte of the fetch is past memory. -/
theorem indexedJumpAddsV0 : Obligations.IndexedJumpAddsV0 := by
  intro nnn s
  have hsum := indexedTarget_toNat (s.getV 0x0#4) nnn
  refine ⟨packA_toNat 0xB#4 nnn, _, rfl, hsum, frame_setPc s _, fun hpc => ⟨_, le_max_right _ _, fetchWord_error ?_⟩⟩
  omega

/-- Settles O29: with a free slot the push stores pc at SP and nowhere else. -/
theorem callPushesItsOwnAddress : Obligations.CallPushesItsOwnAddress := by
  refine fun nnn s => ⟨packA_toNat 0x2#4 nnn, fun h => ?_, fun h => ⟨_, exec_2NNN_full nnn h, rfl⟩⟩
  refine ⟨_, exec_2NNN_ok nnn h, addrOperand_toNat nnn, rfl, ?_, fun j hj hne => ?_, ?_⟩
  · exact Vector.getElem_set_self h
  · exact Vector.getElem_set_ne h hj hne.symm
  · exact frame_trans (frame_setStack s _ _) (frame_setPc _ _)

/-- Settles O30: with an occupied slot the pop reads it and leaves it in place. -/
theorem returnGoesPastTheCall : Obligations.ReturnGoesPastTheCall := by
  refine fun s => ⟨rfl, fun h => ?_, fun h => ⟨_, exec_00EE_empty h, rfl⟩⟩
  refine ⟨_, exec_00EE_ok h, Nat.sub_add_cancel h, BitVec.toNat_add _ _, rfl, ?_⟩
  exact frame_trans (frame_setStack s s.stack _) (frame_setPc _ _)

end Sys2Proof.Proofs
end

section
/-! The key skips (spec R145, R146), the random byte (R162) and the clear of the screen (R240). -/

namespace Sys2Proof.Proofs

open Sys2Proof.Machine Sys2Proof.Laws

/-- Settles O34: below 16 the key is read and `skipIf` tests it; above 15 the read faults. -/
theorem keySkipsTestTheKey : Obligations.KeySkipsTestTheKey := by
  refine fun x s => ⟨fun h => ⟨exec_skipIf (exec_EX9E_ok h) rfl, exec_skipIf (exec_EXA1_ok h) ?_⟩,
    fun h => ⟨exec_EX9E_error h, exec_EXA1_error h⟩⟩
  cases s.key[(s.getV x).toNat] <;> rfl

/-- Settles O37: the byte written is the drawn byte and KK, and an AND acts bit by bit. -/
theorem randomByteIsMasked : Obligations.RandomByteIsMasked := by
  intro x kk s
  refine ⟨packXK_toNat 0xC#4 x kk, _, rfl, rfl, rfl, ?_, fun j => ?_⟩
  · exact frame_advance (frame_trans (frame_rand s) (frame_setV _ x _))
  · rw [getV_advance, getV_setV_same, BitVec.getLsbD_and]
    rfl

/-- Settles O52: the frame presented has every pixel 0. -/
theorem clearScreenClearsEveryPixel : Obligations.ClearScreenClearsEveryPixel :=
  fun s => ⟨rfl, _, rfl, fun j _ => pixel_clearFrame j, rfl, rfl, rfl, frame_advance (frame_present s clearFrame)⟩

end Sys2Proof.Proofs
end

section
/-! The flag-writing ALU classes (spec R185 to R189): VF is written first, and the result is computed from the
registers as they then are (R180). -/

namespace Sys2Proof.Proofs

open Sys2Proof.Machine Sys2Proof.Laws

/-- VF, then V[X], then pc + 2: nothing else changes. -/
theorem frame_setFlag_setV_advance (s : State) (x : Reg) (flag b : Byte) :
    Frame [x, flagReg] [] s ((s.setFlag flag).setV x b).advance :=
  frame_advance (frame_mono_regs (frame_trans (frame_setV s flagReg flag) (frame_setV _ x b))
    (List.Perm.subset (List.Perm.swap x flagReg [])))

/-- A flag-writing ALU class leaves in V[X] its operation on V[X] and V[Y], each read as the flag where it is VF,
and, where X is not F, the flag in VF; nothing else changes but pc. The operation and the flag are given as numbers.
-/
theorem exec_aluFlagged {i : Instr} {flag f : Byte → Byte → Byte} {x y : Reg} {s : State} {n : Nat}
    (op : Nat → Nat → Nat) (h : exec i s = aluFlagged flag f x y s) (hn : (flag (s.getV x) (s.getV y)).toNat = n)
    (hop : ∀ a b, (f a b).toNat = op a.toNat b.toNat) :
    ∃ t, exec i s = .next t ∧ t.pc = s.pc + 2#16 ∧ Frame [x, flagReg] [] s t ∧
      (x ≠ flagReg → (t.getV flagReg).toNat = n) ∧
      (t.getV x).toNat =
        op (if x = flagReg then n else (s.getV x).toNat) (if y = flagReg then n else (s.getV y).toNat) := by
  refine ⟨_, h, rfl, frame_setFlag_setV_advance s x _ _, fun hx => ?_, ?_⟩
  · rw [getV_advance, aluResult, getV_setV_other _ _ hx.symm, getV_setFlag, if_pos rfl, hn]
  · rw [getV_advance, aluResult, getV_setV_same, hop, getV_setFlag, getV_setFlag, ← hn]
    congr 1 <;> split <;> rfl

theorem flagByte_toNat (b : Bool) : (flagByte b).toNat = if b then 1 else 0 := by
  cases b <;> rfl

theorem carryFlag_toNat (a b : Byte) : (carryFlag a b).toNat = if 256 ≤ a.toNat + b.toNat then 1 else 0 := by
  simp only [carryFlag, flagByte_toNat, decide_eq_true_eq]

theorem greaterFlag_toNat (a b : Byte) : (greaterFlag a b).toNat = if b.toNat < a.toNat then 1 else 0 := by
  simp only [greaterFlag, flagByte_toNat, decide_eq_true_eq]

theorem lowBitFlag_toNat (a : Byte) : (lowBitFlag a).toNat = a.toNat % 2 := by
  rw [lowBitFlag, BitVec.toNat_and]
  exact Nat.and_one_is_mod a.toNat

theorem highBitFlag_toNat (a : Byte) : (highBitFlag a).toNat = a.toNat / 128 := by
  have hlt := a.isLt
  rw [highBitFlag, BitVec.toNat_and, BitVec.toNat_ushiftRight, Nat.shiftRight_eq_div_pow,
    show (0x01#8).toNat = 1 from rfl, Nat.and_one_is_mod]
  omega

theorem sub_toNat (a b : Byte) : (a - b).toNat = (a.toNat + 256 - b.toNat) % 256 := by
  have := b.isLt
  rw [BitVec.toNat_sub]
  omega

theorem shiftRight_one_toNat (b : Byte) : (b >>> 1).toNat = b.toNat / 2 := by
  rw [BitVec.toNat_ushiftRight, Nat.shiftRight_eq_div_pow, Nat.pow_one]

theorem shiftLeft_one_toNat (b : Byte) : (b <<< 1).toNat = 2 * b.toNat % 256 := by
  rw [BitVec.toNat_shiftLeft, Nat.shiftLeft_eq, Nat.pow_one, Nat.mul_comm]

/-- The same, case by case of X and Y being VF. -/
theorem exec_aluFlagged_cases {i : Instr} {flag f : Byte → Byte → Byte} {x y : Reg} {s : State} {n : Nat}
    (op : Nat → Nat → Nat) (h : exec i s = aluFlagged flag f x y s) (hn : (flag (s.getV x) (s.getV y)).toNat = n)
    (hop : ∀ a b, (f a b).toNat = op a.toNat b.toNat) :
    ∃ t, exec i s = .next t ∧ t.pc = s.pc + 2#16 ∧ Frame [x, flagReg] [] s t ∧
      (x ≠ flagReg → (t.getV flagReg).toNat = n) ∧
      (x ≠ flagReg → y ≠ flagReg → (t.getV x).toNat = op (s.getV x).toNat (s.getV y).toNat) ∧
      (x ≠ flagReg → y = flagReg → (t.getV x).toNat = op (s.getV x).toNat n) ∧
      (x = flagReg → y ≠ flagReg → (t.getV flagReg).toNat = op n (s.getV y).toNat) ∧
      (x = flagReg → y = flagReg → (t.getV flagReg).toNat = op n n) := by
  obtain ⟨t, hexec, hpc, hframe, hflag, hresult⟩ := exec_aluFlagged op h hn hop
  refine ⟨t, hexec, hpc, hframe, hflag, fun hx hy => ?_, fun hx hy => ?_, fun hx hy => ?_, fun hx hy => ?_⟩
  · rw [hresult, if_neg hx, if_neg hy]
  · rw [hresult, if_neg hx, if_pos hy]
  · rw [← hx, hresult, if_pos hx, if_neg hy]
  · rw [← hx, hresult, if_pos hx, if_pos hy]

/-- Settles O39: the operation is the sum mod 256, and twice a carry is below 256. -/
theorem addSetsCarry : Obligations.AddSetsCarry := by
  rintro x y s a b f rfl rfl rfl
  obtain ⟨t, hexec, hpc, hframe, hflag, hxy, hxF, hFy, hFF⟩ := exec_aluFlagged_cases (i := .op8XY4 x y) (s := s)
    (flag := carryFlag) (fun a b => (a + b) % 256) rfl (carryFlag_toNat _ _) BitVec.toNat_add
  refine ⟨t, hexec, hpc, hframe, hflag, hxy, hxF, hFy, fun hx hy => (hFF hx hy).trans ?_⟩
  split <;> rfl

/-- Settles O40: the operation is the difference mod 256, and a flag less itself is 0. -/
theorem subtractSetsStrictGreater : Obligations.SubtractSetsStrictGreater := by
  rintro x y s a b f rfl rfl rfl
  obtain ⟨t, hexec, hpc, hframe, hflag, hxy, hxF, hFy, hFF⟩ := exec_aluFlagged_cases (i := .op8XY5 x y) (s := s)
    (flag := greaterFlag) (fun a b => (a + 256 - b) % 256) rfl (greaterFlag_toNat _ _) sub_toNat
  refine ⟨t, hexec, hpc, hframe, hflag, hxy, hxF, hFy, fun hx hy => (hFF hx hy).trans ?_⟩
  split <;> rfl

/-- Settles O42: as for 8XY5, with the operands exchanged. -/
theorem reverseSubtractSetsStrictGreater : Obligations.ReverseSubtractSetsStrictGreater := by
  rintro x y s a b f rfl rfl rfl
  obtain ⟨t, hexec, hpc, hframe, hflag, hxy, hxF, hFy, hFF⟩ := exec_aluFlagged_cases (i := .op8XY7 x y) (s := s)
    (flag := fun a b => greaterFlag b a) (f := fun a b => b - a) (fun a b => (b + 256 - a) % 256) rfl
    (greaterFlag_toNat _ _) fun a b => sub_toNat b a
  refine ⟨t, hexec, hpc, hframe, hflag, hxy, hxF, hFy, fun hx hy => (hFF hx hy).trans ?_⟩
  split <;> rfl

/-- Settles O41: the operation halves V[Y], and half of a flag is 0. -/
theorem shiftRightTakesFlagFromVx : Obligations.ShiftRightTakesFlagFromVx := by
  rintro x y s a b f rfl rfl rfl
  obtain ⟨t, hexec, hpc, hframe, hflag, hresult⟩ := exec_aluFlagged (i := .op8XY6 x y) (s := s)
    (flag := fun a _ => lowBitFlag a) (f := fun _ b => b >>> 1) (fun _ b => b / 2) rfl (lowBitFlag_toNat _)
    fun _ b => shiftRight_one_toNat b
  refine ⟨t, hexec, hpc, hframe, hflag, fun hy => ?_, fun hy => ?_⟩
  · rw [hresult, if_neg hy]
  · rw [hresult, if_pos hy]
    omega

/-- Settles O43: the operation doubles V[Y] mod 256, and twice a flag is below 256. -/
theorem shiftLeftTakesFlagFromVx : Obligations.ShiftLeftTakesFlagFromVx := by
  rintro x y s a b f rfl rfl rfl
  obtain ⟨t, hexec, hpc, hframe, hflag, hresult⟩ := exec_aluFlagged (i := .op8XYE x y) (s := s)
    (flag := fun a _ => highBitFlag a) (f := fun _ b => b <<< 1) (fun _ b => 2 * b % 256) rfl (highBitFlag_toNat _)
    fun _ b => shiftLeft_one_toNat b
  refine ⟨t, hexec, hpc, hframe, hflag, fun hy => ?_, fun hy => ?_⟩
  · rw [hresult, if_neg hy]
  · have hlt := (s.getV x).isLt
    rw [hresult, if_pos hy]
    omega

end Sys2Proof.Proofs
end

section
/-! Memory transfers (spec R74, R79, R213 to R216): the block stores of FX33 and FX55, the block load of FX65. -/

namespace Sys2Proof.Proofs

open Sys2Proof.Machine Sys2Proof.Laws

/-- Settles O51: the two tests of `memWrite` passed, so the write is the store at that address. -/
theorem storeChangesOneCell : Obligations.StoreChangesOneCell := by
  intro g m m' a v h
  unfold memWrite at h
  split_ifs at h with hhigh hlow
  cases h
  rw [memSize] at hhigh
  rw [glyphBytes] at hlow
  exact ⟨by omega, by omega, fun b => byteAt_store g m a b v, wf_store v (by omega)⟩

/-! ### Block stores -/

theorem effectiveAddress_eq_add (s : State) (k : Nat) : effectiveAddress s k = effectiveAddress s 0 + k := rfl

/-- A block store within the writable range puts its bytes from I upward and changes no other byte. -/
theorem exec_storeFromI {i : Instr} {s : State} {vs : List Byte} (h : exec i s = storeFromI i vs s)
    (hlow : 80 ≤ effectiveAddress s 0) (hhigh : effectiveAddress s vs.length ≤ 4096) :
    ∃ t, exec i s = .next t ∧ (∀ (k : Nat) (hk : k < vs.length), t.byteAt (effectiveAddress s k) = vs[k]) ∧
      BytesSameOutside (effectiveAddress s 0) vs.length s t ∧ t.pc = s.pc + 2#16 ∧ Frame [] [.memory] s t := by
  obtain ⟨u, hu⟩ := storeBytes_ok s (effectiveAddress s 0) vs hlow (.inr hhigh)
  obtain ⟨⟨m, hm, -⟩, -, hbytes⟩ := storeBytes_next hu
  have hexec : exec i s = .next u.advance := by rw [h, storeFromI, hu]; rfl
  refine ⟨u.advance, hexec, fun k hk => ?_, fun a ha => ?_, ?_, ?_⟩
  · have hin : effectiveAddress s 0 ≤ effectiveAddress s k ∧
        effectiveAddress s k < effectiveAddress s 0 + vs.length := by
      rw [effectiveAddress_eq_add s k]; omega
    rw [byteAt_advance, hbytes, dif_pos hin]
    congr 1
    exact Nat.add_sub_cancel_left s.I.toNat k
  · rw [byteAt_advance, hbytes, dif_neg ha]
  · rw [advance_pc, hm]
  · exact frame_advance (hm ▸ frame_setMem s m)

theorem exec_storeFromI_glyph {i : Instr} {s : State} {vs : List Byte} (h : exec i s = storeFromI i vs s)
    (hvs : vs ≠ []) (hlow : effectiveAddress s 0 ≤ 0x04F) :
    exec i s = .next (takeFault (.glyphWrite (effectiveAddress s 0)) (some (encode i)) s) := by
  rw [h, storeFromI, storeBytes_glyph s _ vs hvs (by omega)]
  rfl

theorem exec_storeFromI_range {i : Instr} {s : State} {vs : List Byte} (h : exec i s = storeFromI i vs s)
    (hvs : vs ≠ []) (hlow : 80 ≤ effectiveAddress s 0) (hhigh : 4096 < effectiveAddress s vs.length) :
    exec i s = .next (takeFault (.memOutOfRange (max (effectiveAddress s 0) 4096) .write) (some (encode i)) s) := by
  rw [h, storeFromI, storeBytes_range s _ vs hvs hlow hhigh]
  rfl

/-- Settles O47: the block is the three digits of a number below 256. -/
theorem decimalDigitsAreStored : Obligations.DecimalDigitsAreStored := by
  rintro x s v rfl
  have hexec : exec (.opFX33 x) s = storeFromI (.opFX33 x) (decimalDigits (s.getV x)) s := rfl
  have hne : decimalDigits (s.getV x) ≠ [] := List.cons_ne_nil _ _
  have hlt := (s.getV x).isLt
  refine ⟨packXK_groupF_toNat x 0x33#8, fun hlow hhigh => ?_, fun hlow => ?_, fun hhigh => ?_⟩
  · obtain ⟨t, ht, hbytes, hsame, hpc, hframe⟩ := exec_storeFromI hexec hlow hhigh
    refine ⟨t, ht, ?_, ?_, ?_, hsame, hpc, hframe⟩
    · rw [hbytes 0 (show 0 < 3 by decide)]
      exact Nat.mod_eq_of_lt (by omega)
    · rw [hbytes 1 (show 1 < 3 by decide)]
      exact Nat.mod_eq_of_lt (by omega)
    · rw [hbytes 2 (show 2 < 3 by decide)]
      exact Nat.mod_eq_of_lt (by omega)
  · exact ⟨_, exec_storeFromI_glyph hexec hne hlow, rfl⟩
  · have hlow : 80 ≤ effectiveAddress s 0 := by rw [effectiveAddress_eq_add s 2] at hhigh; omega
    exact ⟨_, exec_storeFromI_range hexec hne hlow (Nat.lt_succ_of_le hhigh), rfl⟩

theorem regBytes_ne_nil (s : State) (x : Reg) : regBytes s x ≠ [] := List.cons_ne_nil _ _

/-- FX55 within the writable range, byte by byte of the block. -/
theorem exec_FX55_stores {x : Reg} {s : State} (hlow : 80 ≤ effectiveAddress s 0)
    (hhigh : effectiveAddress s x.toNat < 4096) :
    ∃ t, exec (.opFX55 x) s = .next t ∧
      (∀ k, k ≤ x.toNat → t.byteAt (effectiveAddress s k) = s.getV (BitVec.ofNat 4 k)) ∧
      BytesSameOutside (effectiveAddress s 0) (x.toNat + 1) s t ∧ t.pc = s.pc + 2#16 ∧ Frame [] [.memory] s t := by
  have hlen := regBytes_length s x
  obtain ⟨t, ht, hbytes, hsame, hpc, hframe⟩ :=
    exec_storeFromI (i := .opFX55 x) (vs := regBytes s x) rfl hlow (by rw [hlen]; exact hhigh)
  refine ⟨t, ht, fun k hk => ?_, hlen ▸ hsame, hpc, hframe⟩
  rw [hbytes k (by omega), regBytes_get]

/-- Settles O48: the block is the registers V0 to V[X]. -/
theorem registersAreStored : Obligations.RegistersAreStored := by
  refine fun x s => ⟨packXK_groupF_toNat x 0x55#8, exec_FX55_stores, fun hlow => ?_, fun hhigh hlow => ?_⟩
  · exact exec_storeFromI_glyph rfl (regBytes_ne_nil s x) hlow
  · refine exec_storeFromI_range rfl (regBytes_ne_nil s x) hlow ?_
    rw [regBytes_length]
    exact Nat.lt_succ_of_le hhigh

/-- Settles O50: the first two bytes of the block are V0 and V1, and a fetch at the old I reads both. -/
theorem storedBytesAreFetched : Obligations.StoredBytesAreFetched := by
  intro x s hx hlow hhigh
  obtain ⟨t, ht, hbytes, -, -, -⟩ := exec_FX55_stores hlow hhigh
  have hfits : (t.setPc s.I).pc.toNat + 1 < 4096 := by
    rw [setPc_pc]
    unfold effectiveAddress at hhigh
    omega
  have hhi : t.byteAt s.I.toNat = s.getV 0x0#4 := hbytes 0 (Nat.zero_le _)
  have hlo : t.byteAt (s.I.toNat + 1) = s.getV 0x1#4 := hbytes 1 hx
  refine ⟨t, ht, (fetchWord_ok hfits).trans ?_⟩
  rw [byteAt_setPc, byteAt_setPc, setPc_pc, hhi, hlo]

/-! ### The block load -/

/-- A block written to V0 upward: register r gets the byte of number r, a register past the block keeps its value. -/
theorem getV_setVs_range (s : State) (f : Nat → Byte) {n : Nat} (hn : n ≤ 16) (r : Reg) :
    (s.setVs 0 ((List.range n).map f)).getV r = if r.toNat < n then f r.toNat else s.getV r := by
  rw [getV_setVs _ s 0 (by simpa using hn)]
  by_cases hr : r.toNat < n <;> simp [hr]

theorem frame_setVs_range (s : State) (f : Nat → Byte) (n : Nat) :
    Frame ((List.range n).map (BitVec.ofNat 4)) [] s (s.setVs 0 ((List.range n).map f)) := by
  have hframe := frame_setVs s 0 ((List.range n).map f)
  rwa [List.length_map, List.length_range, ← List.range_eq_range'] at hframe

/-- Settles O49: the bytes read in order are written to the registers in order. -/
theorem registersAreLoaded : Obligations.RegistersAreLoaded := by
  refine fun x s => ⟨packXK_groupF_toNat x 0x65#8, fun hhigh => ?_, fun hhigh => ?_⟩
  · have hread := memReadAll_ok s .read (effectiveAddress s 0) (regCount x) (.inr hhigh)
    have hget := getV_setVs_range s (fun k => s.byteAt (effectiveAddress s 0 + k)) (n := regCount x) x.isLt
    refine ⟨_, exec_FX65_ok hread, fun r hr => ?_, fun r hr => ?_, by rw [advance_pc, setVs_pc],
      frame_advance (frame_setVs_range s _ _)⟩
    · exact (hget r).trans (if_pos (Nat.lt_succ_of_le hr))
    · exact (hget r).trans (if_neg (Nat.not_lt.2 hr))
  · exact exec_FX65_error (memReadAll_error s .read _ (regCount x) (Nat.succ_ne_zero _) (Nat.lt_succ_of_le hhigh))

end Sys2Proof.Proofs
end

section
/-! Drawing (spec R241 to R245): what DXYN flips, where it faults, and what drawing twice restores. -/

namespace Sys2Proof.Proofs

open Sys2Proof.Machine Sys2Proof.Laws

/-! ### The sprite and its targets -/

/-- The bytes of the sprite, row by row. -/
def spriteRows (s : State) (n : Nibble) : List Byte :=
  (List.range n.toNat).map fun row => s.byteAt (effectiveAddress s 0 + row)

/-- The pixel indices of the sprite's set bits, in the order they are drawn. -/
def targetList (s : State) (x y : Reg) (n : Nibble) : List Nat :=
  spriteTargets (s.getV x) (s.getV y) 0 (spriteRows s n)

@[simp] theorem spriteRows_length (s : State) (n : Nibble) : (spriteRows s n).length = n.toNat := by
  rw [spriteRows, List.length_map, List.length_range]

theorem spriteRows_getElem (s : State) (n : Nibble) (row : Nat) (h : row < (spriteRows s n).length) :
    (spriteRows s n)[row] = s.byteAt (effectiveAddress s row) := by
  simp only [spriteRows, List.getElem_map, List.getElem_range]
  rfl

theorem pixelIndex_eq_targetIndex (s : State) (x y : Reg) (row col : Nat) :
    pixelIndex (s.getV x) (s.getV y) (0 + row) col = targetIndex s x y row col := by
  rw [Nat.zero_add]
  rfl

theorem mem_targetList (s : State) (x y : Reg) (n : Nibble) (idx : Nat) :
    idx ∈ targetList s x y n ↔ SpriteTargets s x y n idx := by
  rw [targetList, mem_spriteTargets]
  constructor
  · rintro ⟨row, col, hrow, hcol, hbit, hidx⟩
    rw [spriteRows_getElem] at hbit
    rw [pixelIndex_eq_targetIndex] at hidx
    exact ⟨row, col, ⟨spriteRows_length s n ▸ hrow, hcol, hbit⟩, hidx⟩
  · rintro ⟨row, col, ⟨hrow, hcol, hbit⟩, hidx⟩
    refine ⟨row, col, (spriteRows_length s n).symm ▸ hrow, hcol, ?_, ?_⟩
    · rwa [spriteRows_getElem]
    · rwa [pixelIndex_eq_targetIndex]

/-- A readable sprite is drawn target by target. -/
theorem drawSprite_readable {s : State} {n : Nibble} (x y : Reg) (h : SpriteReadable s n) :
    drawSprite x y n s = plotAll s.cfg.drawOob { fb := s.FB, hit := false } (targetList s x y n) := by
  rw [drawSprite, memReadAll_ok s .read (effectiveAddress s 0) n.toNat h]
  rfl

theorem drawSprite_unreadable {s : State} {n : Nibble} (x y : Reg) (h : ¬ SpriteReadable s n) :
    drawSprite x y n s = .error (.memOutOfRange (max (effectiveAddress s 0) 4096) .read) := by
  obtain ⟨hn, haddr⟩ := not_or.1 h
  rw [drawSprite, memReadAll_error s .read (effectiveAddress s 0) n.toNat hn (Nat.lt_of_not_le haddr)]

/-! ### Drawing -/

/-- Settles O53: the targets are distinct, so drawing them one by one flips each once. -/
theorem drawFlipsTheTargetedPixels : Obligations.DrawFlipsTheTargetedPixels := by
  intro x y n s hread hrange
  have hrange' : s.cfg.drawOob = .clip ∨ ∀ j ∈ targetList s x y n, j < 2048 :=
    hrange.imp_right fun h j hj => h j ((mem_targetList s x y n j).1 hj)
  obtain ⟨c, hplot, hpixel, hhit⟩ := plotAll_next s.cfg.drawOob (targetList s x y n) { fb := s.FB, hit := false }
    (spriteTargets_nodup _ _ _ _) hrange'
  have hcollides : c.hit = true ↔ ∃ idx, idx < 2048 ∧ SpriteTargets s x y n idx ∧ pixel s.FB idx = true := by
    rw [hhit]
    constructor
    · rintro (h | ⟨idx, hmem, hlit⟩)
      · cases h
      · refine ⟨idx, ?_, (mem_targetList ..).1 hmem, hlit⟩
        by_contra hout
        rw [pixel_out _ (by omega)] at hlit
        cases hlit
    · rintro ⟨idx, -, htarget, hlit⟩
      exact .inr ⟨idx, (mem_targetList ..).2 htarget, hlit⟩
  have hflag : (((s.setCollision c.hit).present c.fb).advance).getV flagReg =
      if c.hit = true then 0x01#8 else s.getV flagReg := by
    rw [getV_advance, getV_present, getV_setCollision]
    simp
  refine ⟨_, exec_DXYN_ok ((drawSprite_readable x y hread).trans hplot), fun idx hidx htarget => ?_,
    fun idx hidx htarget => ?_, fun h => ?_, fun h => ?_, rfl, rfl, ?_, ?_⟩
  · rw [advance_FB, present_FB, hpixel, decide_eq_true ⟨(mem_targetList ..).2 htarget, hidx⟩, Bool.xor_true]
  · rw [advance_FB, present_FB, hpixel, decide_eq_false fun hmem => htarget ((mem_targetList ..).1 hmem.1),
      Bool.xor_false]
  · rw [hflag, if_pos (hcollides.2 h)]
  · rw [hflag, if_neg fun hhit => h (hcollides.1 hhit)]
  · rw [advance_pc, present_pc, setCollision_pc]
  · exact frame_advance (frame_trans (frame_setCollision s c.hit) (frame_present _ c.fb))

/-! ### The first bad access -/

/-- In a row, the first target with a property is the one of the first column whose target has it. -/
theorem find?_rowTargets {p : Nat → Bool} {vx vy b : Byte} {row col n c : Nat} (hlow : col ≤ c) (hhigh : c < col + n)
    (hset : spriteBit b c = true) (hp : p (pixelIndex vx vy row c) = true)
    (hfirst : ∀ c', c' < c → spriteBit b c' = true → p (pixelIndex vx vy row c') = false) :
    (rowTargets vx vy row b col n).find? p = some (pixelIndex vx vy row c) := by
  induction n generalizing col with
  | zero => omega
  | succ n ih =>
    rw [rowTargets]
    by_cases hcol : col = c
    · subst hcol
      rw [if_pos hset, List.find?_cons_of_pos hp]
    · have hrest := ih (col := col + 1) (by omega) (by omega)
      split
      · rename_i hbit
        rwa [List.find?_cons_of_neg (Bool.not_eq_true _ ▸ hfirst col (by omega) hbit)]
      · exact hrest

/-- In a sprite, the first target with a property is that of the first set bit, row by row, whose target has it. -/
theorem find?_spriteTargets {p : Nat → Bool} {vx vy : Byte} {row r c : Nat} {bs : List Byte} (hr : r < bs.length)
    (hc : c < 8) (hset : spriteBit bs[r] c = true) (hp : p (pixelIndex vx vy (row + r) c) = true)
    (hfirst : ∀ (r' c' : Nat) (hr' : r' < bs.length), c' < 8 → spriteBit bs[r'] c' = true →
      (r' < r ∨ (r' = r ∧ c' < c)) → p (pixelIndex vx vy (row + r') c') = false) :
    (spriteTargets vx vy row bs).find? p = some (pixelIndex vx vy (row + r) c) := by
  induction bs generalizing row r with
  | nil => cases hr
  | cons b bs ih =>
    rw [spriteTargets, List.find?_append]
    cases r with
    | zero =>
      have hrow : (rowTargets vx vy row b 0 8).find? p = some (pixelIndex vx vy row c) :=
        find?_rowTargets (Nat.zero_le c) (by omega) hset hp fun c' hlt hbit =>
          hfirst 0 c' hr (by omega) hbit (.inr ⟨rfl, hlt⟩)
      rw [hrow]
      rfl
    | succ r =>
      have hnone : (rowTargets vx vy row b 0 8).find? p = none := by
        rw [List.find?_eq_none]
        intro idx hidx
        obtain ⟨c', -, hc', hbit, rfl⟩ := (mem_rowTargets ..).1 hidx
        exact Bool.not_eq_true _ ▸ hfirst 0 c' (Nat.succ_pos _) (by omega) hbit (.inl (Nat.succ_pos r))
      have hshift : row + (r + 1) = row + 1 + r := by omega
      rw [hnone, Option.none_or, hshift]
      refine ih (Nat.lt_of_succ_lt_succ hr) hset (hshift ▸ hp) fun r' c' hr' hc' hbit hbefore => ?_
      have := hfirst (r' + 1) c' (Nat.succ_lt_succ hr') hc' hbit (by omega)
      rwa [show row + (r' + 1) = row + 1 + r' by omega] at this

/-- Settles O54: the sprite is read before any pixel, and the targets are drawn in row-then-column order. -/
theorem drawFaultsAtTheFirstBadAccess : Obligations.DrawFaultsAtTheFirstBadAccess := by
  refine fun x y n s => ⟨fun h => exec_DXYN_error (drawSprite_unreadable x y h), ?_⟩
  rintro row col hread hoob ⟨hrow, hcol, hbit⟩ hout hfirst
  have hrow' : row < (spriteRows s n).length := (spriteRows_length s n).symm ▸ hrow
  have hfind : (targetList s x y n).find? (fun k => decide (2048 ≤ k)) = some (targetIndex s x y row col) := by
    rw [← pixelIndex_eq_targetIndex] at hout ⊢
    refine find?_spriteTargets hrow' hcol (by rwa [spriteRows_getElem]) (decide_eq_true hout)
      fun r' c' hr' hc' hbit' hbefore => decide_eq_false ?_
    rw [spriteRows_getElem] at hbit'
    rw [pixelIndex_eq_targetIndex, Nat.not_le]
    exact hfirst r' c' ⟨spriteRows_length s n ▸ hr', hc', hbit'⟩ hbefore
  refine exec_DXYN_error ((drawSprite_readable x y hread).trans ?_)
  rw [hoob, plotAll_fault _ _ _ hfind]

/-! ### Drawing twice -/

theorem not_running_of_takeFault {i : Instr} {s t : State} {c : FaultCause} {w : Option Word}
    (hc : exec i s = .next (takeFault c w s)) (h : exec i s = .next t) : ¬ t.Running := by
  obtain rfl : takeFault c w s = t := Host.Outcome.next.inj (hc.symm.trans h)
  exact nofun

/-- A draw that completes had a readable sprite, and under DRAW_OOB = Fault every target in range. -/
theorem drawable_of_running {x y : Reg} {n : Nibble} {s t : State} (h : exec (.opDXYN x y n) s = .next t)
    (ht : t.Running) :
    SpriteReadable s n ∧ (s.cfg.drawOob = .clip ∨ ∀ idx, SpriteTargets s x y n idx → idx < 2048) := by
  have hread : SpriteReadable s n := by
    by_contra hread
    exact not_running_of_takeFault (exec_DXYN_error (drawSprite_unreadable x y hread)) h ht
  refine ⟨hread, ?_⟩
  cases hoob : s.cfg.drawOob with
  | clip => exact .inl rfl
  | fault =>
    refine .inr fun idx htarget => ?_
    by_contra hout
    have hsome : ((targetList s x y n).find? fun k => decide (2048 ≤ k)).isSome := by
      rw [List.find?_isSome]
      exact ⟨idx, (mem_targetList ..).2 htarget, decide_eq_true (by omega)⟩
    obtain ⟨j, hj⟩ := Option.isSome_iff_exists.1 hsome
    have hplot := drawSprite_readable x y hread
    rw [hoob, plotAll_fault _ _ _ hj] at hplot
    exact not_running_of_takeFault (exec_DXYN_error hplot) h ht

/-- A sprite is read from I and memory, and placed by V[X] and V[Y]. -/
theorem spriteTargets_congr {s t : State} {x y : Reg} (n : Nibble) (hI : t.I = s.I)
    (hbytes : ∀ a, t.byteAt a = s.byteAt a) (hx : t.getV x = s.getV x) (hy : t.getV y = s.getV y) (idx : Nat) :
    SpriteTargets t x y n idx ↔ SpriteTargets s x y n idx := by
  simp only [SpriteTargets, SpriteBitSet, targetIndex, effectiveAddress, hI, hbytes, hx, hy]

/-- Settles O55: the second draw has the targets of the first and flips each back. A target in range is lit for one
of the two draws, and the draw that finds one lit leaves 1 in VF. -/
theorem drawingTwiceRestoresTheFrame : Obligations.DrawingTwiceRestoresTheFrame := by
  intro x y n s t u hs hdraw ht hx hy hdraw'
  obtain ⟨hread, hrange⟩ := drawable_of_running hdraw ht
  obtain ⟨t', ht', hflip, hkeep, hhit, hmiss, -, -, -, hframe⟩ := drawFlipsTheTargetedPixels x y n s hread hrange
  obtain rfl : t = t' := Host.Outcome.next.inj (hdraw.symm.trans ht')
  have hI : t.I = s.I := hframe.index (by decide)
  have htargets := spriteTargets_congr n hI (hframe.memory (by decide)) hx hy
  have hread' : SpriteReadable t n := by
    unfold SpriteReadable effectiveAddress
    rw [hI]
    exact hread
  have hrange' : t.cfg.drawOob = .clip ∨ ∀ idx, SpriteTargets t x y n idx → idx < 2048 := by
    rw [hframe.cfg]
    exact hrange.imp_right fun h idx htarget => h idx ((htargets idx).1 htarget)
  obtain ⟨u', hu', hflip', hkeep', hhit', hmiss', -, -, -, hframe'⟩ := drawFlipsTheTargetedPixels x y n t hread' hrange'
  obtain rfl : u = u' := Host.Outcome.next.inj (hdraw'.symm.trans hu')
  refine ⟨(hframe'.status.trans hframe.status).trans hs, fun idx hidx => ?_, ?_⟩
  · by_cases htarget : SpriteTargets s x y n idx
    · rw [hflip' idx hidx ((htargets idx).2 htarget), hflip idx hidx htarget, Bool.not_not]
    · rw [hkeep' idx hidx (mt (htargets idx).1 htarget), hkeep idx hidx htarget]
  · rintro ⟨idx, hidx, htarget⟩
    by_cases hlit : ∃ idx, idx < 2048 ∧ SpriteTargets t x y n idx ∧ pixel t.FB idx = true
    · exact hhit' hlit
    · have hunlit : pixel t.FB idx ≠ true := fun h => hlit ⟨idx, hidx, (htargets idx).2 htarget, h⟩
      rw [hflip idx hidx htarget, ne_eq, Bool.not_eq_true', Bool.not_eq_false] at hunlit
      rw [hmiss' hlit]
      exact hhit ⟨idx, hidx, htarget, hunlit⟩

end Sys2Proof.Proofs
end

section
/-! What an instruction can do, said once for every class: the fault it may take with its cause (R284, R285), and,
where it completes, its frame, its memory and its next pc (R25). -/

namespace Sys2Proof.Proofs

open Sys2Proof.Machine Sys2Proof.Laws

/-! ### The causes of the operations that may fault -/

theorem storeBytes_error {s : State} {base : Nat} {vs : List Byte} {c : FaultCause}
    (h : storeBytes s base vs = .error c) :
    ∃ a, (c = .memOutOfRange a .write ∧ 4096 ≤ a) ∨ (c = .glyphWrite a ∧ a ≤ 0x04F) := by
  have hvs : vs ≠ [] := by
    rintro rfl
    cases h
  by_cases hlow : base < 80
  · rw [storeBytes_glyph s base vs hvs hlow] at h
    cases h
    exact ⟨base, .inr ⟨rfl, by omega⟩⟩
  · by_cases hhigh : base + vs.length ≤ 4096
    · obtain ⟨t, ht⟩ := storeBytes_ok s base vs (by omega) (.inr hhigh)
      rw [ht] at h
      cases h
    · rw [storeBytes_range s base vs hvs (by omega) (by omega)] at h
      cases h
      exact ⟨_, .inl ⟨rfl, le_max_right _ _⟩⟩

theorem plotAll_error {oob : DrawOob} {l : List Nat} {c : Canvas} {e : FaultCause} (h : plotAll oob c l = .error e) :
    ∃ a, e = .drawOutOfRange a ∧ 2048 ≤ a ∧ oob = .fault := by
  induction l generalizing c with
  | nil => cases h
  | cons j l ih =>
    rw [plotAll] at h
    cases hplot : plot oob c j with
    | ok c' =>
      rw [hplot] at h
      exact ih h
    | error e' =>
      rw [hplot] at h
      cases h
      unfold plot at hplot
      split at hplot
      · cases oob <;> cases hplot
        exact ⟨j, rfl, ‹_›, rfl⟩
      · cases hplot

theorem drawSprite_error {x y : Reg} {n : Nibble} {s : State} {c : FaultCause} (h : drawSprite x y n s = .error c) :
    ∃ a, (c = .memOutOfRange a .read ∧ 4096 ≤ a) ∨ (c = .drawOutOfRange a ∧ 2048 ≤ a ∧ s.cfg.drawOob = .fault) := by
  by_cases hread : SpriteReadable s n
  · rw [drawSprite_readable x y hread] at h
    obtain ⟨a, ha⟩ := plotAll_error h
    exact ⟨a, .inr ha⟩
  · rw [drawSprite_unreadable x y hread] at h
    cases h
    exact ⟨_, .inl ⟨rfl, le_max_right _ _⟩⟩

/-! ### What each class may change -/

/-- The general registers a class may write (R23). -/
def regsWritten : Instr → List Reg
  | .op6XKK x _ | .op7XKK x _ | .op8XY0 x _ | .op8XY1 x _ | .op8XY2 x _ | .op8XY3 x _ | .opCXKK x _ | .opFX07 x => [x]
  | .op8XY4 x _ | .op8XY5 x _ | .op8XY6 x _ | .op8XY7 x _ | .op8XYE x _ => [x, flagReg]
  | .opDXYN _ _ _ => [flagReg]
  | .opFX65 x => (List.range (regCount x)).map (BitVec.ofNat 4)
  | _ => []

/-- The other parts of the state a class may write (R30 to R35, R73). -/
def partsWritten : Instr → List Part
  | .op00E0 | .opDXYN _ _ _ => [.display]
  | .op00EE | .op2NNN _ => [.stack]
  | .opANNN _ | .opFX1E _ | .opFX29 _ => [.index]
  | .opCXKK _ _ => [.draws]
  | .opFX15 _ => [.delayTimer]
  | .opFX18 _ => [.soundTimer]
  | .opFX33 _ | .opFX55 _ => [.memory]
  | _ => []

/-- The key numbered V[X]; a number above 15 is no key, and a skip on it faults. -/
def keyNumbered (s : State) (x : Reg) : Bool := if h : (s.getV x).toNat < 16 then s.key[(s.getV x).toNat] else false

/-- The return address 00EE pops: the topmost occupied slot. -/
def topSlot (s : State) : Word := s.stack[s.SP.val - 1]'(by have := s.SP.isLt; omega)

/-- The pc after a class that completes (R25). -/
def nextPc (s : State) : Instr → Word
  | .op00EE => topSlot s + 2#16
  | .op1NNN nnn | .op2NNN nnn => addrOperand nnn
  | .op3XKK x kk => (s.skipIf (decide (s.getV x = kk))).pc
  | .op4XKK x kk => (s.skipIf (decide (s.getV x ≠ kk))).pc
  | .op5XY0 x y => (s.skipIf (decide (s.getV x = s.getV y))).pc
  | .op9XY0 x y => (s.skipIf (decide (s.getV x ≠ s.getV y))).pc
  | .opBNNN nnn => byteOperand (s.getV 0x0#4) + addrOperand nnn
  | .opEX9E x => (s.skipIf (keyNumbered s x)).pc
  | .opEXA1 x => (s.skipIf (!keyNumbered s x)).pc
  | _ => s.pc + 2#16

/-- The fault a class may take, with its cause (R284, R285). -/
def MayFault (s : State) (c : FaultCause) : Instr → Prop
  | .op00EE => c = .stackUnderflow 0
  | .op2NNN _ => c = .stackOverflow 16
  | .opEX9E x | .opEXA1 x => c = .keyIndexOutOfRange (s.getV x) ∧ 15 < (s.getV x).toNat
  | .opFX33 _ | .opFX55 _ => ∃ a, (c = .memOutOfRange a .write ∧ 4096 ≤ a) ∨ (c = .glyphWrite a ∧ a ≤ 0x04F)
  | .opFX65 _ => ∃ a, c = .memOutOfRange a .read ∧ 4096 ≤ a
  | .opDXYN _ _ _ =>
    ∃ a, (c = .memOutOfRange a .read ∧ 4096 ≤ a) ∨ (c = .drawOutOfRange a ∧ 2048 ≤ a ∧ s.cfg.drawOob = .fault)
  | _ => False

/-- What a class that completes does. -/
structure Effect (i : Instr) (s t : State) : Prop where
  frame : Frame (regsWritten i) (partsWritten i) s t
  pc : t.pc = nextPc s i
  mem : Part.memory ∉ partsWritten i → t.mem = s.mem
  memCanonical : s.mem.wf s.cfg.glyphs = true → t.mem.wf s.cfg.glyphs = true
  glyphs : ∀ a, a < 80 → t.byteAt a = s.byteAt a

theorem effect_of_mem_eq {i : Instr} {s t : State} (hframe : Frame (regsWritten i) (partsWritten i) s t)
    (hpc : t.pc = nextPc s i) (hmem : t.mem = s.mem) : Effect i s t where
  frame := hframe
  pc := hpc
  mem _ := hmem
  memCanonical h := hmem ▸ h
  glyphs a _ := by rw [State.byteAt, State.byteAt, hmem, hframe.cfg]

/-- FX33 and FX55: a store that answers has stayed above the glyph table and kept the canonical form. -/
theorem effect_of_storeBytes {i : Instr} {s u : State} {base : Nat} {vs : List Byte} (hregs : regsWritten i = [])
    (hparts : partsWritten i = [.memory]) (hpc : nextPc s i = s.pc + 2#16) (h : storeBytes s base vs = .ok u) :
    Effect i s u.advance := by
  obtain ⟨⟨m, rfl, hwf⟩, hrange, hbytes⟩ := storeBytes_next h
  refine ⟨?_, hpc.symm, fun hm => absurd (hparts ▸ List.mem_cons_self) hm, hwf, fun a ha => ?_⟩
  · rw [hregs, hparts]
    exact frame_advance (frame_setMem s m)
  · refine (hbytes a).trans (dif_neg fun hin => ?_)
    have hvs : vs ≠ [] := by
      rintro rfl
      simp only [List.length_nil] at hin
      omega
    have := (hrange hvs).1
    omega

/-- Everything an instruction can answer: a fault of its class taken from the state it was given (R282), or a state it
completes in. -/
theorem exec_effect (i : Instr) (s : State) :
    (∃ c, MayFault s c i ∧ exec i s = .next (takeFault c (some (encode i)) s)) ∨
      ∃ t, exec i s = .next t ∧ Effect i s t := by
  cases i with
  | op00E0 => exact .inr ⟨_, rfl, effect_of_mem_eq (frame_advance (frame_present s clearFrame)) rfl rfl⟩
  | op00EE =>
    by_cases h : s.SP.val = 0
    · exact .inl ⟨_, rfl, exec_00EE_empty h⟩
    · refine .inr ⟨_, exec_00EE_ok (Nat.pos_of_ne_zero h), effect_of_mem_eq ?_ rfl rfl⟩
      exact frame_trans (frame_setStack s s.stack _) (frame_setPc _ _)
  | op2NNN nnn =>
    by_cases h : s.SP.val < 16
    · refine .inr ⟨_, exec_2NNN_ok nnn h, effect_of_mem_eq ?_ rfl rfl⟩
      exact frame_trans (frame_setStack s _ _) (frame_setPc _ _)
    · exact .inl ⟨_, rfl, exec_2NNN_full nnn (by omega)⟩
  | opEX9E x =>
    by_cases h : (s.getV x).toNat < 16
    · exact .inr ⟨_, exec_EX9E_ok h, effect_of_mem_eq (frame_setPc s _) (by rw [nextPc, keyNumbered, dif_pos h]) rfl⟩
    · exact .inl ⟨_, ⟨rfl, by omega⟩, exec_EX9E_error (by omega)⟩
  | opEXA1 x =>
    by_cases h : (s.getV x).toNat < 16
    · exact .inr ⟨_, exec_EXA1_ok h, effect_of_mem_eq (frame_setPc s _) (by rw [nextPc, keyNumbered, dif_pos h]) rfl⟩
    · exact .inl ⟨_, ⟨rfl, by omega⟩, exec_EXA1_error (by omega)⟩
  | opFX33 x =>
    cases h : storeBytes s (effectiveAddress s 0) (decimalDigits (s.getV x)) with
    | error c => exact .inl ⟨c, storeBytes_error h, exec_FX33_error h⟩
    | ok u => exact .inr ⟨_, exec_FX33_ok h, effect_of_storeBytes rfl rfl rfl h⟩
  | opFX55 x =>
    cases h : storeBytes s (effectiveAddress s 0) (regBytes s x) with
    | error c => exact .inl ⟨c, storeBytes_error h, exec_FX55_error h⟩
    | ok u => exact .inr ⟨_, exec_FX55_ok h, effect_of_storeBytes rfl rfl rfl h⟩
  | opFX65 x =>
    by_cases h : effectiveAddress s 0 + regCount x ≤ 4096
    · have hread := memReadAll_ok s .read (effectiveAddress s 0) (regCount x) (.inr h)
      have hframe := frame_advance (frame_setVs_range s (fun k => s.byteAt (effectiveAddress s 0 + k)) (regCount x))
      exact .inr ⟨_, exec_FX65_ok hread, effect_of_mem_eq hframe (by rw [advance_pc, setVs_pc]; rfl) (setVs_mem ..)⟩
    · have hread := memReadAll_error s .read (effectiveAddress s 0) (regCount x) (Nat.succ_ne_zero _) (by omega)
      exact .inl ⟨_, ⟨_, rfl, le_max_right _ _⟩, exec_FX65_error hread⟩
  | opDXYN x y n =>
    cases h : drawSprite x y n s with
    | error c => exact .inl ⟨c, drawSprite_error h, exec_DXYN_error h⟩
    | ok c =>
      have hframe := frame_advance (frame_trans (frame_setCollision s c.hit) (frame_present _ c.fb))
      exact .inr ⟨_, exec_DXYN_ok h, effect_of_mem_eq hframe (by simp [nextPc]) (by simp)⟩
  | opCXKK x kk =>
    have hframe := frame_advance (frame_trans (frame_rand s) (frame_setV s.rand.2 x (s.rand.1 &&& kk)))
    exact .inr ⟨_, rfl, effect_of_mem_eq hframe rfl rfl⟩
  | op1NNN | op3XKK | op4XKK | op5XY0 | op9XY0 | opBNNN =>
    exact .inr ⟨_, rfl, effect_of_mem_eq (frame_setPc s _) rfl rfl⟩
  | op6XKK x | op7XKK x | op8XY0 x | op8XY1 x | op8XY2 x | op8XY3 x | opFX07 x =>
    exact .inr ⟨_, rfl, effect_of_mem_eq (frame_setV_advance s x _) rfl rfl⟩
  | op8XY4 x | op8XY5 x | op8XY6 x | op8XY7 x | op8XYE x =>
    exact .inr ⟨_, rfl, effect_of_mem_eq (frame_setFlag_setV_advance s x _ _) rfl rfl⟩
  | opANNN | opFX1E | opFX29 => exact .inr ⟨_, rfl, effect_of_mem_eq (frame_setI_advance s _) rfl rfl⟩
  | opFX15 x =>
    have hframe := frame_setTimers_advance (free := [.delayTimer]) (s := s) (d := s.getV x)
      (fun h => absurd List.mem_cons_self h) fun _ => rfl
    exact .inr ⟨_, exec_FX15_eq_setTimers x s, effect_of_mem_eq hframe rfl rfl⟩
  | opFX18 x =>
    have hframe := frame_setTimers_advance (free := [.soundTimer]) (s := s) (e := s.getV x) (fun _ => rfl)
      fun h => absurd List.mem_cons_self h
    exact .inr ⟨_, exec_FX18_eq_setTimers x s, effect_of_mem_eq hframe rfl rfl⟩

/-- The same, of the state that an instruction has answered. -/
theorem exec_next {i : Instr} {s t : State} (h : exec i s = .next t) :
    (∃ c, MayFault s c i ∧ t = takeFault c (some (encode i)) s) ∨ Effect i s t := by
  obtain ⟨c, hc, hexec⟩ | ⟨u, hexec, hu⟩ := exec_effect i s
  · exact .inl ⟨c, hc, Host.Outcome.next.inj (h.symm.trans hexec)⟩
  · exact .inr (Host.Outcome.next.inj (hexec.symm.trans h) ▸ hu)

/-- An instruction that leaves the machine running has completed. -/
theorem exec_running {i : Instr} {s t : State} (h : exec i s = .next t) (ht : t.Running) : Effect i s t := by
  obtain ⟨c, -, rfl⟩ | he := exec_next h
  · cases ht
  · exact he

end Sys2Proof.Proofs
end

section
/-! The tables of the whole instruction set, read off `Effect`: causes of faults (R285), next pc (R25), and the
writers of each store (R28, R30 to R35, R73). -/

namespace Sys2Proof.Proofs

open Sys2Proof.Machine Sys2Proof.Laws

/-- Settles O20: the table of causes is `MayFault`, and a class that completes has not faulted. -/
theorem onlyTheListedClassesFault : Obligations.OnlyTheListedClassesFault := by
  intro i s t r hs h hr
  obtain ⟨c, hc, rfl⟩ | he := exec_next h
  · cases hr
    cases i <;> exact hc
  · cases (he.frame.status.trans hs).symm.trans hr

/-! ### The next pc -/

theorem skipIf_pc_eq_add (s : State) (c : Bool) : (s.skipIf c).pc = s.pc + if c = true then 4#16 else 2#16 := by
  cases c <;> rfl

theorem skipIf_not_pc_eq_add (s : State) (c : Bool) : (s.skipIf (!c)).pc = s.pc + if c = true then 2#16 else 4#16 := by
  cases c <;> rfl

/-- Settles O21: the next pc of a class that completes is `nextPc`, which is the table; a fault keeps pc. -/
theorem nextPcOfEveryClass : Obligations.NextPcOfEveryClass := by
  intro i s hs
  obtain ⟨c, -, hexec⟩ | ⟨t, hexec, he⟩ := exec_effect i s
  · exact ⟨_, hexec, fun _ => rfl, fun hrun => nomatch hrun⟩
  · refine ⟨t, hexec, fun hnot => absurd (he.frame.status.trans hs) hnot, fun _ => ?_⟩
    have hpc := he.pc
    cases i with
    | op1NNN nnn | op2NNN nnn => rw [hpc]; exact addrOperand_toNat nnn
    | op00EE => exact fun _ => hpc
    | opBNNN nnn => rw [hpc]; exact indexedTarget_toNat _ nnn
    | op3XKK x kk | op5XY0 x kk =>
      rw [hpc, nextPc, skipIf_pc_eq_add]
      simp only [decide_eq_true_eq]
    | op4XKK x kk | op9XY0 x kk =>
      rw [hpc, nextPc, decide_not, skipIf_not_pc_eq_add]
      simp only [decide_eq_true_eq]
    | opEX9E x =>
      intro h
      rw [hpc, nextPc, skipIf_pc_eq_add, keyNumbered, dif_pos h]
    | opEXA1 x =>
      intro h
      rw [hpc, nextPc, skipIf_not_pc_eq_add, keyNumbered, dif_pos h]
    | _ => exact hpc

/-! ### The writers of each part -/

theorem memory_notMem_partsWritten {i : Instr} (h33 : ∀ x, i ≠ .opFX33 x) (h55 : ∀ x, i ≠ .opFX55 x) :
    Part.memory ∉ partsWritten i := by
  cases i with
  | opFX33 x => exact absurd rfl (h33 x)
  | opFX55 x => exact absurd rfl (h55 x)
  | _ => simp [partsWritten]

theorem draws_notMem_partsWritten {i : Instr} (h : ∀ x kk, i ≠ .opCXKK x kk) : Part.draws ∉ partsWritten i := by
  cases i with
  | opCXKK x kk => exact absurd rfl (h x kk)
  | _ => simp [partsWritten]

theorem stack_notMem_partsWritten {i : Instr} (hret : i ≠ .op00EE) (hcall : ∀ a, i ≠ .op2NNN a) :
    Part.stack ∉ partsWritten i := by
  cases i with
  | op00EE => exact absurd rfl hret
  | op2NNN a => exact absurd rfl (hcall a)
  | _ => simp [partsWritten]

theorem display_notMem_partsWritten {i : Instr} (hcls : i ≠ .op00E0) (hdraw : ∀ x y n, i ≠ .opDXYN x y n) :
    Part.display ∉ partsWritten i := by
  cases i with
  | op00E0 => exact absurd rfl hcls
  | opDXYN x y n => exact absurd rfl (hdraw x y n)
  | _ => simp [partsWritten]

theorem delayTimer_notMem_partsWritten {i : Instr} (h : ∀ x, i ≠ .opFX15 x) : Part.delayTimer ∉ partsWritten i := by
  cases i with
  | opFX15 x => exact absurd rfl (h x)
  | _ => simp [partsWritten]

theorem soundTimer_notMem_partsWritten {i : Instr} (h : ∀ x, i ≠ .opFX18 x) : Part.soundTimer ∉ partsWritten i := by
  cases i with
  | opFX18 x => exact absurd rfl (h x)
  | _ => simp [partsWritten]

theorem index_notMem_partsWritten {i : Instr} (hA : ∀ a, i ≠ .opANNN a) (h1E : ∀ x, i ≠ .opFX1E x)
    (h29 : ∀ x, i ≠ .opFX29 x) : Part.index ∉ partsWritten i := by
  cases i with
  | opANNN a => exact absurd rfl (hA a)
  | opFX1E x => exact absurd rfl (h1E x)
  | opFX29 x => exact absurd rfl (h29 x)
  | _ => simp [partsWritten]

/-- Settles O22: memory and the draw counter are in no other class's frame, and a fault restores both. -/
theorem onlyStoresWriteMemory : Obligations.OnlyStoresWriteMemory := by
  intro i s t h
  obtain ⟨c, -, rfl⟩ | he := exec_next h
  · exact ⟨fun _ _ => rfl, fun _ => rfl⟩
  · exact ⟨fun h33 h55 => he.mem (memory_notMem_partsWritten h33 h55),
      fun hC => he.frame.draws (draws_notMem_partsWritten hC)⟩

/-- Settles O23: each part is in no other class's frame, and a fault restores it. -/
theorem eachStoreHasItsWriters : Obligations.EachStoreHasItsWriters := by
  intro i s t h
  obtain ⟨c, -, rfl⟩ | he := exec_next h
  · exact ⟨fun _ _ => ⟨rfl, rfl⟩, fun _ _ => ⟨rfl, rfl⟩, fun _ => rfl, fun _ => rfl, fun _ _ _ => rfl⟩
  · refine ⟨fun hret hcall => ?_, fun hcls hdraw => ?_, fun h15 => ?_, fun h18 => ?_, fun hA h1E h29 => ?_⟩
    · exact (he.frame.stack (stack_notMem_partsWritten hret hcall)).symm
    · obtain ⟨hFB, hdirty, -⟩ := he.frame.display (display_notMem_partsWritten hcls hdraw)
      exact ⟨hFB, hdirty⟩
    · exact he.frame.delayTimer (delayTimer_notMem_partsWritten h15)
    · exact he.frame.soundTimer (soundTimer_notMem_partsWritten h18)
    · exact he.frame.index (index_notMem_partsWritten hA h1E h29)

/-! ### VF -/

/-- The block V0 to V[X] holds VF only where X is F. -/
theorem eq_flagReg_of_mem_block {x : Reg} (h : flagReg ∈ (List.range (regCount x)).map (BitVec.ofNat 4)) :
    x = flagReg := by
  obtain ⟨k, hk, hreg⟩ := List.mem_map.1 h
  have hkx : k < x.toNat + 1 := List.mem_range.1 hk
  have hmod : k % 16 = 15 := congrArg BitVec.toNat hreg
  have hx := x.isLt
  exact BitVec.eq_of_toNat_eq (show x.toNat = 15 by omega)

/-- DXYN writes VF only on a collision, and then writes 1 (R241). -/
theorem exec_DXYN_flag {x y : Reg} {n : Nibble} {s t : State} (h : exec (.opDXYN x y n) s = .next t)
    (hne : t.getV flagReg ≠ s.getV flagReg) : t.getV flagReg = 0x01#8 := by
  cases hdraw : drawSprite x y n s with
  | error c =>
    rw [exec_DXYN_error hdraw] at h
    cases h
    exact absurd rfl hne
  | ok c =>
    rw [exec_DXYN_ok hdraw] at h
    cases h
    rw [getV_advance, getV_present, getV_setCollision] at hne ⊢
    split_ifs at hne ⊢
    · rfl
    · exact absurd rfl hne

/-- Settles O24: a class changes VF only where VF is among the registers it writes. -/
theorem flagHasItsWriters : Obligations.FlagHasItsWriters := by
  intro i s t h hne
  obtain ⟨c, -, rfl⟩ | he := exec_next h
  · exact absurd rfl hne
  · have hmem : flagReg ∈ regsWritten i := by
      by_contra hnot
      exact hne (he.frame.regs flagReg hnot)
    cases i with
    | op8XY4 | op8XY5 | op8XY6 | op8XY7 | op8XYE => trivial
    | opDXYN x y n => exact exec_DXYN_flag h hne
    | op6XKK | op7XKK | op8XY0 | op8XY1 | op8XY2 | op8XY3 | opCXKK | opFX07 => exact (List.mem_singleton.1 hmem).symm
    | opFX65 x => exact eq_flagReg_of_mem_block hmem
    | _ => cases hmem

end Sys2Proof.Proofs
end

section
/-! One step (spec R102 to R105, R294): its fetch, what it runs, its tick, and what it reports. -/

namespace Sys2Proof.Proofs

open Sys2Proof.Machine Sys2Proof.Laws

/-! ### The step, by what the fetch and the decoder answer -/

theorem step_of_fetch_error {s : State} {c : FaultCause} (hs : s.Running) (hf : fetchWord s = .error c) :
    step s = .next (takeFault c none (beginStep s)) := by
  simp only [step, hs, fetchWord_beginStep, hf, stepFetchFault]

theorem step_of_decode {s : State} {op : Word} {i : Instr} (hs : s.Running) (hf : fetchWord s = .ok op)
    (hd : decode op = .ok i) : step s = completeStep (exec i (beginStep s)) := by
  simp only [step, hs, fetchWord_beginStep, hf, hd]

/-- The state in which the fallback has reported its word (R97). -/
def report (op : Word) (s : State) : State := { s with diag := some { pc := s.pc, op := op } }

theorem step_of_decode_error {s : State} {op : Word} {e : DecodeReject} (hs : s.Running) (hf : fetchWord s = .ok op)
    (hd : decode op = .error e) : step s = .next (tick (report op (beginStep s)).advance) := by
  simp only [step, hs, fetchWord_beginStep, hf, hd, execUnrecognized]
  exact completeStep_running hs

/-- Everything a step can answer, of the state it has answered: that of a faulted machine again; a fault; the state
after the fallback; the state after an instruction. The last two are ticked. -/
theorem step_next {s t : State} (h : step s = .next t) :
    ((∃ r, s.status = .faulted r) ∧ t = s) ∨
    (s.Running ∧ ∃ c w, t = takeFault c w (beginStep s)) ∨
    (s.Running ∧ ∃ op, fetchWord s = .ok op ∧ decode op = .error (.unrecognized op) ∧
      t = tick (report op (beginStep s)).advance) ∨
    (s.Running ∧ ∃ op i u, fetchWord s = .ok op ∧ decode op = .ok i ∧ exec i (beginStep s) = .next u ∧
      Effect i (beginStep s) u ∧ t = tick u) := by
  cases hs : s.status with
  | faulted r => exact .inl ⟨⟨r, rfl⟩, Host.Outcome.next.inj (h.symm.trans (step_faulted hs))⟩
  | running =>
    obtain ⟨c, -, hstep⟩ | ⟨op, e, hf, hd, hstep⟩ | ⟨op, i, c, -, -, -, hstep⟩ | ⟨op, i, u, hf, hd, hexec, hu, hstep⟩ :=
      step_cases hs
    · exact .inr (.inl ⟨hs, c, none, Host.Outcome.next.inj (h.symm.trans hstep)⟩)
    · exact .inr (.inr (.inl ⟨hs, op, hf, (decode_error hd).1 ▸ hd, Host.Outcome.next.inj (h.symm.trans hstep)⟩))
    · exact .inr (.inl ⟨hs, c, _, Host.Outcome.next.inj (h.symm.trans hstep)⟩)
    · exact .inr (.inr (.inr ⟨hs, op, i, u, hf, hd, hexec, exec_running hexec (hu.status.trans hs),
        Host.Outcome.next.inj (h.symm.trans hstep)⟩))

/-- Settles O12: a faulted machine answers itself, a running one by the cases of its step. -/
theorem everyStepAnswersANextState : Obligations.EveryStepAnswersANextState := by
  intro s
  cases hs : s.status with
  | faulted r => exact ⟨s, step_faulted hs⟩
  | running =>
    obtain ⟨t, hstep, -⟩ := step_running_or_faulted hs
    exact ⟨t, hstep⟩

/-! ### The fetch -/

theorem fetchWord_ok_of_le {s : State} (h : s.pc.toNat ≤ 0xFFE) :
    fetchWord s = .ok (joinBytes (s.byteAt s.pc.toNat) (s.byteAt (s.pc.toNat + 1))) :=
  fetchWord_ok (by omega)

theorem pc_le_of_fetch {s : State} {op : Word} (h : fetchWord s = .ok op) : s.pc.toNat ≤ 0xFFE := by
  by_contra hpc
  rw [fetchWord_error (by omega)] at h
  cases h

/-- Settles O6: both bytes are in memory, or the first address past it is reported. -/
theorem fetchReadsTwoBytesHighFirst : Obligations.FetchReadsTwoBytesHighFirst := by
  refine fun s hs => ⟨fun h => ⟨_, fetchWord_ok_of_le h, joinBytes_toNat _ _⟩, fun h => ?_⟩
  have haddr : max s.pc.toNat 4096 = if s.pc.toNat = 0xFFF then 0x1000 else s.pc.toNat := by
    split <;> omega
  have hf := fetchWord_error (s := s) (by omega)
  rw [haddr] at hf
  exact ⟨hf, _, _, step_of_fetch_error hs hf, rfl, rfl⟩

/-! ### The instruction and the tick -/

/-- Settles O7: the fetched word is the one that decodes to i, and the end of the step looks at the status alone. -/
theorem stepRunsTheDecodedInstruction : Obligations.StepRunsTheDecodedInstruction := by
  intro s i hs hpc hd u hexec
  have hstep : step s = completeStep (.next u) :=
    (step_of_decode hs (fetchWord_ok_of_le hpc) hd).trans (congrArg completeStep hexec)
  rw [hstep]
  refine ⟨completeStep_running, fun hnot => ?_⟩
  cases hu : u.status with
  | running => exact absurd hu hnot
  | faulted r => exact completeStep_faulted hu

/-- Settles O8: no row selects the word, so the decoder refuses it and the step is the fallback and the tick. -/
theorem unrecognizedWordIsReportedNoOp : Obligations.UnrecognizedWordIsReportedNoOp := by
  rintro s op hs hpc rfl hrows
  have hword : wordWellFormed (joinBytes (s.byteAt s.pc.toNat) (s.byteAt (s.pc.toNat + 1))) = false := by
    rw [wordWellFormed, List.any_eq_false]
    exact fun r hr => Bool.not_eq_true _ ▸ hrows r hr
  have hstep := step_of_decode_error hs (fetchWord_ok_of_le hpc) ((wordWellFormed_eq_false_iff_decode _).1 hword)
  have hpc2 : (s.pc + 2#16).toNat = s.pc.toNat + 2 := by
    rw [BitVec.toNat_add]
    exact Nat.mod_eq_of_lt (show s.pc.toNat + 2 < 65536 by omega)
  exact ⟨_, hstep, outcome_running hs, hpc2, tick_DT_toNat _, tick_ST_toNat _, rfl, rfl, rfl, rfl, rfl, rfl, rfl, rfl,
    rfl, rfl⟩

/-- Settles O9: the last two cases of a step end in the tick; a fault restores the timers. -/
theorem everyCompletedStepTicksOnce : Obligations.EveryCompletedStepTicksOnce := by
  intro s t hs h
  obtain ⟨⟨r, hr⟩, -⟩ | ⟨-, c, w, rfl⟩ | ⟨-, op, hf, hd, rfl⟩ | ⟨-, op, i, u, hf, hd, hexec, hu, rfl⟩ := step_next h
  · cases hs.symm.trans hr
  · exact ⟨fun hrun => (nomatch hrun), fun _ => ⟨rfl, rfl⟩⟩
  · exact ⟨fun _ => ⟨_, op, hf, .inr ⟨hd, rfl⟩, rfl, tick_DT_toNat _, tick_ST_toNat _⟩, fun hnot => absurd hs hnot⟩
  · exact ⟨fun _ => ⟨u, op, hf, .inl ⟨i, hd, hexec⟩, rfl, tick_DT_toNat u, tick_ST_toNat u⟩,
      fun hnot => absurd (hu.frame.status.trans hs) hnot⟩

/-- The sound signal of a timer that holds n - 1 (R296). -/
theorem shouldBeep_iff {t : State} {n : Nat} (h : t.ST.toNat = n - 1) : shouldBeep t = true ↔ 2 ≤ n := by
  have hzero : t.ST = 0x00#8 ↔ t.ST.toNat = 0 := BitVec.toNat_inj.symm
  rw [shouldBeep, decide_eq_true_eq, ne_eq, hzero, h]
  omega

/-- Settles O10: each class followed by the tick, at the state the step begins with. -/
theorem timerWritesMeetTheSameStepsTick : Obligations.TimerWritesMeetTheSameStepsTick := by
  intro s x hs hpc
  refine ⟨fun hd => ?_, fun hd => ?_, fun hd => ?_⟩
  · obtain ⟨u, hexec, hx, -, hframe, htick⟩ := exec_FX07_then_tick x (beginStep s)
    have hstep := (stepRunsTheDecodedInstruction s _ hs hpc hd u hexec).1 (hframe.status.trans hs)
    exact ⟨tick u, hstep, hx, htick⟩
  · obtain ⟨u, hexec, -, -, hframe, htick⟩ := exec_FX15_then_tick x (beginStep s)
    have hstep := (stepRunsTheDecodedInstruction s _ hs hpc hd u hexec).1 (hframe.status.trans hs)
    exact ⟨tick u, hstep, htick⟩
  · obtain ⟨u, hexec, -, -, hframe, htick⟩ := exec_FX18_then_tick x (beginStep s)
    have hstep := (stepRunsTheDecodedInstruction s _ hs hpc hd u hexec).1 (hframe.status.trans hs)
    exact ⟨tick u, hstep, htick, shouldBeep_iff htick⟩

/-! ### What a step reports -/

/-- An instruction that completes has marked the framebuffer drawn exactly where it is 00E0 or DXYN (D20). -/
theorem drew_iff {i : Instr} {s u : State} (hs : s.drew = false) (hrun : u.Running) (h : exec i s = .next u) :
    u.drew = true ↔ i = .op00E0 ∨ ∃ x y n, i = .opDXYN x y n := by
  have he := exec_running h hrun
  constructor
  · intro hdrew
    by_contra hnot
    obtain ⟨hcls, hdraw⟩ := not_or.1 hnot
    have hdisplay : Part.display ∉ partsWritten i :=
      display_notMem_partsWritten hcls fun x y n hi => hdraw ⟨x, y, n, hi⟩
    rw [(he.frame.display hdisplay).2.2, hs] at hdrew
    cases hdrew
  · rintro (rfl | ⟨x, y, n, rfl⟩)
    · cases h
      rfl
    · obtain ⟨hread, hrange⟩ := drawable_of_running h hrun
      obtain ⟨u', hu', -, -, -, -, -, hdrew, -⟩ := drawFlipsTheTargetedPixels x y n s hread hrange
      exact Host.Outcome.next.inj (hu'.symm.trans h) ▸ hdrew

theorem diag_notMem_partsWritten (i : Instr) : Part.diag ∉ partsWritten i := by
  cases i <;> simp [partsWritten]

/-- Settles O11: a step begins with both outputs clear; only the fallback reports, and only 00E0 and DXYN draw. -/
theorem stepReportsWhatItDid : Obligations.StepReportsWhatItDid := by
  intro s t hs h
  refine ⟨fun r => ?_, fun hrun => ?_⟩
  · cases ht : t.status with
    | running => simp [outcome_running ht]
    | faulted r' => simp [outcome_faulted ht]
  · obtain ⟨⟨r, hr⟩, -⟩ | ⟨-, c, w, rfl⟩ | ⟨-, op, hf, hd, rfl⟩ | ⟨-, op, i, u, hf, hd, hexec, hu, rfl⟩ := step_next h
    · cases hs.symm.trans hr
    · cases hrun
    · refine ⟨op, hf, ?_, fun d => ?_⟩
      · simp [hd, report]
      · simp [hd, report, eq_comm]
    · refine ⟨op, hf, ?_, fun d => ?_⟩
      · simp only [tick_drew, hd, Except.ok.injEq]
        exact drew_iff rfl hrun hexec
      · have hdiag : u.diag = none := hu.frame.diag (diag_notMem_partsWritten i)
        simp [hd, hdiag]

/-! ### What a fault restores -/

/-- Settles O19: every fault is taken from the state at step entry, and an instruction's word is the one fetched
(R95). -/
theorem faultRestoresTheStepsEntryState : Obligations.FaultRestoresTheStepsEntryState := by
  intro s t r hs h hr
  obtain ⟨c, hf, hstep⟩ | ⟨op, e, -, -, hstep⟩ | ⟨op, i, c, hf, hd, -, hstep⟩ | ⟨op, i, u, -, -, -, hu, hstep⟩ :=
    step_cases hs
  · obtain rfl := Host.Outcome.next.inj (hstep.symm.trans h)
    cases hr
    refine ⟨rfl, rfl, fun op hop => ?_, fun c' hc' => ⟨rfl, ?_⟩⟩
    · cases hf.symm.trans hop
    · exact Except.error.inj (hf.symm.trans hc')
  · obtain rfl := Host.Outcome.next.inj (hstep.symm.trans h)
    cases hs.symm.trans hr
  · obtain rfl := Host.Outcome.next.inj (hstep.symm.trans h)
    cases hr
    refine ⟨rfl, rfl, fun op' hop => ?_, fun c' hc' => ?_⟩
    · rw [encode_of_decode hd, Except.ok.inj (hf.symm.trans hop)]
    · cases hf.symm.trans hc'
  · obtain rfl := Host.Outcome.next.inj (hstep.symm.trans h)
    cases (hu.status.trans hs).symm.trans hr

end Sys2Proof.Proofs
end

section
/-! What every step keeps (spec R27, R32, R36, R63): the invariant, the glyph table, the parameters and the keys;
and the stack between a call and its return (R125). -/

namespace Sys2Proof.Proofs

open Sys2Proof.Machine Sys2Proof.Laws

/-! ### The stack -/

/-- How a stack moves: not at all, by a push of pc, or by a pop that leaves the slots in place (R121, R123). -/
inductive StackMove (s t : State) : Prop where
  | stays (hsp : t.SP = s.SP) (hslots : t.stack = s.stack)
  | pushes (h : s.SP.val < 16) (hsp : t.SP.val = s.SP.val + 1) (hslots : t.stack = s.stack.set s.SP.val s.pc h)
  | pops (hsp : t.SP.val + 1 = s.SP.val) (hslots : t.stack = s.stack)

theorem exec_stackMove {i : Instr} {s t : State} (h : exec i s = .next t) : StackMove s t := by
  obtain ⟨c, -, rfl⟩ | he := exec_next h
  · exact .stays rfl rfl
  · by_cases hret : i = .op00EE
    · subst hret
      by_cases hsp : s.SP.val = 0
      · obtain rfl := Host.Outcome.next.inj ((exec_00EE_empty hsp).symm.trans h)
        exact .stays rfl rfl
      · obtain rfl := Host.Outcome.next.inj ((exec_00EE_ok (Nat.pos_of_ne_zero hsp)).symm.trans h)
        exact .pops (Nat.succ_pred_eq_of_ne_zero hsp) rfl
    · by_cases hcall : ∃ a, i = .op2NNN a
      · obtain ⟨a, rfl⟩ := hcall
        by_cases hsp : s.SP.val < 16
        · obtain rfl := Host.Outcome.next.inj ((exec_2NNN_ok a hsp).symm.trans h)
          exact .pushes hsp rfl rfl
        · obtain rfl := Host.Outcome.next.inj ((exec_2NNN_full a (by omega)).symm.trans h)
          exact .stays rfl rfl
      · obtain ⟨hsp, hslots⟩ := he.frame.stack (stack_notMem_partsWritten hret fun a ha => hcall ⟨a, ha⟩)
        exact .stays hsp hslots

theorem step_stackMove {s t : State} (h : step s = .next t) : StackMove s t := by
  obtain ⟨-, rfl⟩ | ⟨-, c, w, rfl⟩ | ⟨-, op, -, -, rfl⟩ | ⟨-, op, i, u, -, -, hexec, -, rfl⟩ := step_next h
  · exact .stays rfl rfl
  · exact .stays rfl rfl
  · exact .stays rfl rfl
  · obtain ⟨hsp, hslots⟩ | ⟨hlt, hsp, hslots⟩ | ⟨hsp, hslots⟩ := exec_stackMove hexec
    · exact .stays hsp hslots
    · exact .pushes hlt hsp hslots
    · exact .pops hsp hslots

/-- An occupied slot is overwritten by no step. -/
theorem stackMove_slot {s t : State} (h : StackMove s t) {j : Nat} (hj : j < 16) (hocc : j < s.SP.val) :
    t.stack[j] = s.stack[j] := by
  obtain ⟨-, hslots⟩ | ⟨hlt, -, hslots⟩ | ⟨-, hslots⟩ := h
  · simp only [hslots]
  · simp only [hslots]
    exact Vector.getElem_set_ne hlt hj (by omega)
  · simp only [hslots]

/-- A slot that is occupied before each of `k` steps is overwritten by none of them. -/
theorem runSteps_slot {k : Nat} {s t : State} {j : Nat} (hj : j < 16) (hrun : runSteps k s = .next t)
    (hocc : ∀ n u, n ≤ k → runSteps n s = .next u → j < u.SP.val) : t.stack[j] = s.stack[j] := by
  induction k generalizing s with
  | zero =>
    cases hrun
    rfl
  | succ k ih =>
    obtain ⟨u, hstep⟩ := everyStepAnswersANextState s
    have hnext (n : Nat) : runSteps (n + 1) s = runSteps n u := by rw [runSteps, hstep]
    rw [hnext] at hrun
    have htail := ih hrun fun n v hn hv => hocc (n + 1) v (Nat.succ_le_succ hn) ((hnext n).trans hv)
    exact htail.trans (stackMove_slot (step_stackMove hstep) hj (hocc 0 s (Nat.zero_le _) rfl))

/-- Settles O32: the slot of the call stays as the call wrote it, since SP stays above it, and the return pops it. -/
theorem returnPairsWithItsCall : Obligations.ReturnPairsWithItsCall := by
  intro nnn s s1 s2 k hlt hcall hrun habove hsp
  obtain rfl := Host.Outcome.next.inj ((exec_2NNN_ok nnn hlt).symm.trans hcall)
  have hslot : s2.stack[s.SP.val] = s.pc :=
    (runSteps_slot hlt hrun habove).trans (Vector.getElem_set_self hlt)
  refine ⟨_, exec_00EE_ok (by omega), ?_, ?_⟩
  · have htop : s2.SP.val - 1 = s.SP.val := by omega
    simp only [setPc_pc, htop, hslot]
  · exact Fin.ext (show s2.SP.val - 1 = s.SP.val by omega)

/-! ### The invariant -/

/-- The invariant speaks of memory, parameters, pc and stack only. -/
theorem inv_congr {s t : State} (hs : s.Inv) (hmem : t.mem = s.mem) (hcfg : t.cfg = s.cfg) (hpc : t.pc.toNat ≤ 0x10FE)
    (hsp : t.SP = s.SP) (hslots : t.stack = s.stack) : t.Inv where
  memCanonical := by rw [hmem, hcfg]; exact hs.memCanonical
  glyphsIntact a h := by
    simp only [State.byteAt, hmem, hcfg]
    exact hs.glyphsIntact a h
  pcBounded := hpc
  returnsFetchable j hj hocc := by
    simp only [hslots]
    exact hs.returnsFetchable j hj (hsp ▸ hocc)

theorem skipIf_pc_le {s : State} (c : Bool) (hpc : s.pc.toNat ≤ 0xFFE) : (s.skipIf c).pc.toNat ≤ 0x10FE := by
  rw [skipIf_pc_toNat]
  cases c <;> simp <;> omega

/-- From a pc that can be fetched from, no class reaches past 0x10FE (R27): a skip goes at most 4 further, a jump to
at most 0xFFF, an indexed jump to at most 0xFF + 0xFFF, a return to 2 past a return address. -/
theorem nextPc_le {i : Instr} {s t : State} (hs : s.Inv) (hpc : s.pc.toNat ≤ 0xFFE) (hexec : exec i s = .next t)
    (hrun : t.Running) : (nextPc s i).toNat ≤ 0x10FE := by
  have hadvance : (s.pc + 2#16).toNat ≤ 0x10FE := skipIf_pc_le false hpc
  cases i with
  | op00EE =>
    have hpos : 0 < s.SP.val := by
      by_contra hzero
      exact not_running_of_takeFault (exec_00EE_empty (by omega)) hexec hrun
    have hsp := s.SP.isLt
    have hret : (topSlot s).toNat ≤ 0xFFE := hs.returnsFetchable (s.SP.val - 1) (by omega) (by omega)
    rw [nextPc, BitVec.toNat_add, show (2#16).toNat = 2 from rfl]
    omega
  | op1NNN nnn | op2NNN nnn =>
    have := nnn.isLt
    rw [nextPc, addrOperand_toNat]
    omega
  | opBNNN nnn =>
    have := nnn.isLt
    have := (s.getV 0x0#4).isLt
    rw [nextPc, indexedTarget_toNat]
    omega
  | op3XKK | op4XKK | op5XY0 | op9XY0 | opEX9E | opEXA1 => exact skipIf_pc_le _ hpc
  | _ => exact hadvance

theorem exec_inv {i : Instr} {s t : State} (hs : s.Inv) (hpc : s.pc.toNat ≤ 0xFFE) (hexec : exec i s = .next t)
    (hrun : t.Running) : t.Inv where
  memCanonical := by
    have he := exec_running hexec hrun
    rw [he.frame.cfg]
    exact he.memCanonical hs.memCanonical
  glyphsIntact a h := by
    have he := exec_running hexec hrun
    simp only [he.glyphs a h, he.frame.cfg]
    exact hs.glyphsIntact a h
  pcBounded := by
    rw [(exec_running hexec hrun).pc]
    exact nextPc_le hs hpc hexec hrun
  returnsFetchable j hj hocc := by
    have hmove := exec_stackMove hexec
    by_cases hold : j < s.SP.val
    · rw [stackMove_slot hmove hj hold]
      exact hs.returnsFetchable j hj hold
    · obtain ⟨hsp, -⟩ | ⟨hlt, hsp, hslots⟩ | ⟨hsp, -⟩ := hmove
      · exact absurd (hsp ▸ hocc) hold
      · obtain rfl : j = s.SP.val := by omega
        simp only [hslots, Vector.getElem_set_self]
        exact hpc
      · omega

theorem inv_beginStep {s : State} (hs : s.Inv) : (beginStep s).Inv := inv_congr hs rfl rfl hs.pcBounded rfl rfl

theorem inv_tick {s : State} (hs : s.Inv) : (tick s).Inv := inv_congr hs rfl rfl hs.pcBounded rfl rfl

/-- Settles O13: a fault keeps every part the invariant speaks of; what completes has been fetched, so its pc was at
most 0xFFE. -/
theorem stepKeepsTheInvariant : Obligations.StepKeepsTheInvariant := by
  intro s t hs h
  obtain ⟨-, rfl⟩ | ⟨-, c, w, rfl⟩ | ⟨-, op, hf, -, rfl⟩ | ⟨hrun, op, i, u, hf, -, hexec, hu, rfl⟩ := step_next h
  · exact hs
  · exact inv_congr hs rfl rfl hs.pcBounded rfl rfl
  · have hadvance : (s.pc + 2#16).toNat ≤ 0x10FE := skipIf_pc_le false (pc_le_of_fetch hf)
    exact inv_congr hs rfl rfl hadvance rfl rfl
  · exact inv_tick (exec_inv (inv_beginStep hs) (pc_le_of_fetch hf) hexec (hu.frame.status.trans hrun))

/-- Settles O16: no instruction writes below 0x050, and every frame keeps the parameters and the keys. -/
theorem glyphTableIsImmutable : Obligations.GlyphTableIsImmutable := by
  intro s t h
  obtain ⟨-, rfl⟩ | ⟨-, c, w, rfl⟩ | ⟨-, op, -, -, rfl⟩ | ⟨-, op, i, u, -, -, -, hu, rfl⟩ := step_next h
  · exact ⟨fun _ _ => rfl, rfl, rfl⟩
  · exact ⟨fun _ _ => rfl, rfl, rfl⟩
  · exact ⟨fun _ _ => rfl, rfl, rfl⟩
  · exact ⟨hu.glyphs, hu.frame.cfg, hu.frame.key⟩

/-- Settles O18: a machine faulted before some step would still be faulted at the end. -/
theorem runningAtTheEndMeansASafeRun : Obligations.RunningAtTheEndMeansASafeRun := by
  intro k
  induction k with
  | zero =>
    intro s t h ht
    cases h
    exact ht
  | succ k ih =>
    intro s t h ht
    cases hs : s.status with
    | faulted r =>
      obtain rfl := Host.Outcome.next.inj ((runSteps_faulted hs (k + 1)).symm.trans h)
      cases hs.symm.trans ht
    | running =>
      obtain ⟨u, hstep⟩ := everyStepAnswersANextState s
      rw [runSteps, hstep] at h
      exact ⟨hs, u, hstep, ih u t h ht⟩

end Sys2Proof.Proofs
end


section
/-! Construction and the host's calls (spec R40, R299, R304, R320 to R322). -/

namespace Sys2Proof.Proofs

open Sys2Proof.Machine Sys2Proof.Laws

/-! ### Loading the image -/

/-- The image's bytes in order from the load address, every other byte as before. -/
theorem byteAt_loadBytes (g : Glyphs) (image : List Byte) (m : Memory) (base a : Nat) :
    (loadBytes g m base image).byteAt g a =
      if h : base ≤ a ∧ a < base + image.length then image[a - base] else m.byteAt g a := by
  induction image generalizing m base with
  | nil =>
    rw [dif_neg (by simp)]
    rfl
  | cons b bs ih =>
    rw [loadBytes, ih, byteAt_store]
    by_cases ha : a = base
    · subst ha
      simp
    · by_cases hin : base + 1 ≤ a ∧ a < base + 1 + bs.length
      · have hin' : base ≤ a ∧ a < base + (b :: bs).length := by simp only [List.length_cons]; omega
        have hpred : a - base = (a - (base + 1)) + 1 := by omega
        rw [dif_pos hin, dif_pos hin']
        simp only [hpred, List.getElem_cons_succ]
      · have hin' : ¬ (base ≤ a ∧ a < base + (b :: bs).length) := by simp only [List.length_cons]; omega
        rw [dif_neg hin, dif_neg hin', if_neg ha]

theorem wf_loadBytes {g : Glyphs} {image : List Byte} {m : Memory} {base : Nat} (hfits : base + image.length ≤ 4096)
    (hm : m.wf g = true) : (loadBytes g m base image).wf g = true := by
  induction image generalizing m base with
  | nil => exact hm
  | cons b bs ih =>
    simp only [List.length_cons] at hfits
    exact ih (by omega) (wf_store b (by omega) hm)

/-- The machine constructed from an image (R40, R320). -/
def constructed (cfg : Config) (image : List Byte) : State :=
  { State.reset with mem := loadBytes cfg.glyphs [] progBase image, cfg := cfg }

theorem imageWellFormed_iff (image : List Byte) : imageWellFormed image = true ↔ image.length ≤ 3584 := by
  rw [imageWellFormed, decide_eq_true_eq, maxImage]

theorem construct_ok (cfg : Config) {image : List Byte} (h : image.length ≤ 3584) :
    construct cfg image = .ok (constructed cfg image) :=
  if_pos ((imageWellFormed_iff image).2 h)

theorem construct_error (cfg : Config) {image : List Byte} (h : 3584 < image.length) :
    construct cfg image = .error (.imageTooLarge image.length) :=
  if_neg fun hw => Nat.not_le.2 h ((imageWellFormed_iff image).1 hw)

theorem construct_eq_ok {cfg : Config} {image : List Byte} {s : State} (h : construct cfg image = .ok s) :
    image.length ≤ 3584 ∧ s = constructed cfg image := by
  by_cases hlen : image.length ≤ 3584
  · rw [construct_ok cfg hlen] at h
    exact ⟨hlen, (Except.ok.inj h).symm⟩
  · rw [construct_error cfg (by omega)] at h
    cases h

theorem byteAt_constructed (cfg : Config) (image : List Byte) (a : Nat) :
    (constructed cfg image).byteAt a =
      if h : 0x200 ≤ a ∧ a < 0x200 + image.length then image[a - 0x200] else unlistedByte cfg.glyphs a :=
  byteAt_loadBytes cfg.glyphs image [] 0x200 a

theorem byteAt_constructed_glyph (cfg : Config) (image : List Byte) {a : Nat} (h : a < 80) :
    (constructed cfg image).byteAt a = cfg.glyphs[a] := by
  rw [byteAt_constructed, dif_neg (by omega), unlistedByte, dif_pos h]

theorem byteAt_constructed_image (cfg : Config) (image : List Byte) {k : Nat} (h : k < image.length) :
    (constructed cfg image).byteAt (0x200 + k) = image[k] := by
  rw [byteAt_constructed, dif_pos (by omega)]
  simp only [Nat.add_sub_cancel_left]

theorem byteAt_constructed_zero (cfg : Config) (image : List Byte) {a : Nat} (h : 80 ≤ a)
    (h' : a < 0x200 ∨ 0x200 + image.length ≤ a) : (constructed cfg image).byteAt a = 0x00#8 := by
  rw [byteAt_constructed, dif_neg (by omega), unlistedByte, dif_neg (by omega)]

/-- Settles O57: the image is loaded into empty memory, and every other field is that of reset. -/
theorem constructionPlacesTheImage : Obligations.ConstructionPlacesTheImage := by
  refine fun cfg image => ⟨fun h => ?_, construct_error cfg⟩
  refine ⟨_, construct_ok cfg h, fun a ha => byteAt_constructed_glyph cfg image ha,
    fun k hk => byteAt_constructed_image cfg image hk, fun a => byteAt_constructed_zero cfg image, rfl, fun r => ?_,
    rfl, rfl, fun j hj => ⟨?_, ?_⟩, rfl, rfl, pixel_clearFrame, rfl, rfl, rfl⟩
  · exact Vector.getElem_replicate r.isLt
  · exact Vector.getElem_replicate hj
  · exact Vector.getElem_replicate hj

/-- Settles O58: the image's first two bytes stand at pc, and the machine is as a step begins. -/
theorem firstStepFetchesTheFirstWord : Obligations.FirstStepFetchesTheFirstWord := by
  intro cfg b0 b1 rest s h
  obtain ⟨-, rfl⟩ := construct_eq_ok h
  have hfetch : fetchWord (constructed cfg (b0 :: b1 :: rest)) = .ok (joinBytes b0 b1) := by
    have h0 := byteAt_constructed_image cfg (b0 :: b1 :: rest) (k := 0) (Nat.succ_pos _)
    have h1 := byteAt_constructed_image cfg (b0 :: b1 :: rest) (k := 1) (Nat.succ_lt_succ (Nat.succ_pos _))
    refine (fetchWord_ok_of_le (show (0x200#16).toNat ≤ 0xFFE by decide)).trans ?_
    exact congrArg₂ (fun hi lo => Except.ok (joinBytes hi lo)) h0 h1
  refine ⟨rfl, rfl, hfetch, fun i u hd hexec hu => ?_⟩
  have hstep := (step_of_decode rfl hfetch hd).trans (congrArg completeStep hexec)
  exact hstep.trans (completeStep_running hu)

/-! ### The invariant of every run -/

theorem constructed_inv {cfg : Config} {image : List Byte} (h : image.length ≤ 3584) : (constructed cfg image).Inv where
  memCanonical := wf_loadBytes (show 0x200 + image.length ≤ 4096 by omega) (wf_nil cfg.glyphs)
  glyphsIntact _ ha := byteAt_constructed_glyph cfg image ha
  pcBounded := show (0x200#16).toNat ≤ 0x10FE by decide
  returnsFetchable _ _ hocc := absurd hocc (Nat.not_lt_zero _)

/-- Settles O14: reset is construction from the empty image. -/
theorem resetMeetsTheInvariant : Obligations.ResetMeetsTheInvariant :=
  constructed_inv (cfg := Config.default) (image := []) (Nat.zero_le _)

/-- Every host call answers, and keeps the invariant and the parameters. -/
theorem hostCall_inv (c : HostCall) {s : State} (hs : s.Inv) :
    ∃ reply t, hostCall c s = .next (reply, t) ∧ t.Inv ∧ t.cfg = s.cfg := by
  cases c with
  | step =>
    obtain ⟨t, hstep⟩ := everyStepAnswersANextState s
    have hcall : hostCall .step s = .next (.stepped t.outcome, t) := by simp only [hostCall, hstep]
    exact ⟨_, t, hcall, stepKeepsTheInvariant s t hs hstep, (glyphTableIsImmutable s t hstep).2.1⟩
  | setKeys k => exact ⟨_, _, rfl, inv_congr hs rfl rfl hs.pcBounded rfl rfl, rfl⟩
  | currentFrame => exact ⟨_, _, rfl, inv_congr hs rfl rfl hs.pcBounded rfl rfl, rfl⟩
  | shouldBeep => exact ⟨_, _, rfl, hs, rfl⟩

theorem runCalls_inv (calls : List HostCall) {s : State} (hs : s.Inv) :
    ∃ t, runCalls calls s = .next t ∧ t.Inv ∧ t.cfg = s.cfg := by
  induction calls generalizing s with
  | nil => exact ⟨s, rfl, hs, rfl⟩
  | cons c calls ih =>
    obtain ⟨reply, u, hcall, hu, hcfg⟩ := hostCall_inv c hs
    obtain ⟨t, hrun, ht, hcfg'⟩ := ih hu
    exact ⟨t, by rw [runCalls, hcall]; exact hrun, ht, hcfg'.trans hcfg⟩

/-- Settles O15: construction meets the invariant, each host call keeps it, and it holds the glyph table. -/
theorem invariantAlongEveryHostRun : Obligations.InvariantAlongEveryHostRun := by
  intro cfg image s h
  obtain ⟨hlen, rfl⟩ := construct_eq_ok h
  refine ⟨constructed_inv hlen, fun calls => ?_⟩
  obtain ⟨t, hrun, ht, hcfg⟩ := runCalls_inv calls (constructed_inv (cfg := cfg) hlen)
  exact ⟨t, hrun, ht, hcfg, fun a ha => (ht.glyphsIntact a ha).trans (by rw [hcfg]; rfl)⟩

end Sys2Proof.Proofs
end

section
/-! What the instructions do not read (spec R35, R295): ST, DT but for FX07, and the dirty flag. -/

namespace Sys2Proof.Proofs

open Sys2Proof.Machine Sys2Proof.Laws

/-- The state with other timers and another dirty flag. -/
def overlay (d e : Byte) (y : Bool) (s : State) : State := { s with DT := d, ST := e, dirty := y }

/-- A field that two runs may hold differently, `a` and `b` before and `a'` and `b'` after: written alike in both
runs, or kept in both. -/
def WrittenOrKept {α : Type} (a b a' b' : α) : Prop := b' = a' ∨ (a' = a ∧ b' = b)

/-- What two runs answer that began with such a difference. -/
def AnswersOverlay (run run' : Result) (d e : Byte) (y : Bool) (s : State) : Prop :=
  ∃ t d' e' y', run = .next t ∧ run' = .next (overlay d' e' y' t) ∧
    WrittenOrKept s.DT d t.DT d' ∧ WrittenOrKept s.ST e t.ST e' ∧ WrittenOrKept s.dirty y t.dirty y'

/-- A difference that an update passes through is kept. -/
theorem answersOverlay_of_kept {run run' : Result} {d e : Byte} {y : Bool} {s t : State} (hrun : run = .next t)
    (hrun' : run' = .next (overlay d e y t)) (hd : t.DT = s.DT) (he : t.ST = s.ST) (hy : t.dirty = s.dirty) :
    AnswersOverlay run run' d e y s :=
  ⟨t, d, e, y, hrun, hrun', .inr ⟨hd, rfl⟩, .inr ⟨he, rfl⟩, .inr ⟨hy, rfl⟩⟩

theorem setVs_overlay (d e : Byte) (y : Bool) (s : State) (x : Nat) (bs : List Byte) :
    (overlay d e y s).setVs x bs = overlay d e y (s.setVs x bs) :=
  setVs_comm (fun _ _ _ => rfl) s x bs

theorem storeFromI_overlay (i : Instr) (vs : List Byte) (d e : Byte) (y : Bool) (s : State) :
    AnswersOverlay (storeFromI i vs s) (storeFromI i vs (overlay d e y s)) d e y s := by
  have hstore : storeBytes (overlay d e y s) (effectiveAddress s 0) vs =
      (storeBytes s (effectiveAddress s 0) vs).map (overlay d e y) :=
    storeBytes_comm rfl rfl (fun _ => rfl) _ _
  have heff : effectiveAddress (overlay d e y s) 0 = effectiveAddress s 0 := rfl
  unfold storeFromI
  rw [heff, hstore]
  cases h : storeBytes s (effectiveAddress s 0) vs with
  | error c => exact answersOverlay_of_kept rfl rfl rfl rfl rfl
  | ok u =>
    obtain ⟨⟨m, rfl, -⟩, -, -⟩ := storeBytes_next h
    exact answersOverlay_of_kept rfl rfl rfl rfl rfl

/-- No instruction but FX07 reads a timer, and none reads the dirty flag: run from two states that differ only
there, each answers two states that differ only there. -/
theorem exec_overlay (i : Instr) (d e : Byte) (y : Bool) (s : State) (hDT : (∀ x, i ≠ .opFX07 x) ∨ d = s.DT) :
    AnswersOverlay (exec i s) (exec i (overlay d e y s)) d e y s := by
  cases i with
  | op00E0 => exact ⟨_, d, e, true, rfl, rfl, .inr ⟨rfl, rfl⟩, .inr ⟨rfl, rfl⟩, .inl rfl⟩
  | opFX15 x => exact ⟨_, s.getV x, e, y, rfl, rfl, .inl rfl, .inr ⟨rfl, rfl⟩, .inr ⟨rfl, rfl⟩⟩
  | opFX18 x => exact ⟨_, d, s.getV x, y, rfl, rfl, .inr ⟨rfl, rfl⟩, .inl rfl, .inr ⟨rfl, rfl⟩⟩
  | opFX07 x =>
    obtain rfl := hDT.resolve_left fun h => h x rfl
    exact answersOverlay_of_kept rfl rfl rfl rfl rfl
  | op00EE =>
    by_cases h : s.SP.val = 0
    · exact answersOverlay_of_kept (exec_00EE_empty h) (exec_00EE_empty h) rfl rfl rfl
    · have hpos := Nat.pos_of_ne_zero h
      exact answersOverlay_of_kept (exec_00EE_ok hpos) (exec_00EE_ok (s := overlay d e y s) hpos) rfl rfl rfl
  | op2NNN nnn =>
    by_cases h : s.SP.val < 16
    · exact answersOverlay_of_kept (exec_2NNN_ok nnn h) (exec_2NNN_ok (s := overlay d e y s) nnn h) rfl rfl rfl
    · have hfull : s.SP.val = 16 := by omega
      exact answersOverlay_of_kept (exec_2NNN_full nnn hfull) (exec_2NNN_full nnn hfull) rfl rfl rfl
  | opEX9E x =>
    by_cases h : (s.getV x).toNat < 16
    · exact answersOverlay_of_kept (exec_EX9E_ok h) (exec_EX9E_ok (s := overlay d e y s) h) rfl rfl rfl
    · have h' : 15 < (s.getV x).toNat := by omega
      exact answersOverlay_of_kept (exec_EX9E_error h') (exec_EX9E_error (s := overlay d e y s) h') rfl rfl rfl
  | opEXA1 x =>
    by_cases h : (s.getV x).toNat < 16
    · exact answersOverlay_of_kept (exec_EXA1_ok h) (exec_EXA1_ok (s := overlay d e y s) h) rfl rfl rfl
    · have h' : 15 < (s.getV x).toNat := by omega
      exact answersOverlay_of_kept (exec_EXA1_error h') (exec_EXA1_error (s := overlay d e y s) h') rfl rfl rfl
  | opFX33 x => exact storeFromI_overlay (.opFX33 x) (decimalDigits (s.getV x)) d e y s
  | opFX55 x =>
    have hbytes : regBytes (overlay d e y s) x = regBytes s x :=
      regBytesFrom_congr (s := s) (t := overlay d e y s) rfl 0 (regCount x)
    simp only [exec, execFX55, hbytes]
    exact storeFromI_overlay (.opFX55 x) (regBytes s x) d e y s
  | opFX65 x =>
    have hread : memReadAll (overlay d e y s) .read (effectiveAddress s 0) (regCount x) =
        memReadAll s .read (effectiveAddress s 0) (regCount x) :=
      memReadAll_congr (s := s) (t := overlay d e y s) rfl rfl _ _ _
    cases h : memReadAll s .read (effectiveAddress s 0) (regCount x) with
    | error c => exact answersOverlay_of_kept (exec_FX65_error h) (exec_FX65_error (hread.trans h)) rfl rfl rfl
    | ok bs =>
      refine answersOverlay_of_kept (exec_FX65_ok h) ((exec_FX65_ok (hread.trans h)).trans ?_) (setVs_DT ..)
        (setVs_ST ..) (setVs_dirty ..)
      rw [setVs_overlay]
      rfl
  | opDXYN x y' n =>
    have hdraw : drawSprite x y' n (overlay d e y s) = drawSprite x y' n s :=
      drawSprite_congr (s := s) (t := overlay d e y s) rfl rfl rfl rfl rfl x y' n
    cases h : drawSprite x y' n s with
    | error c => exact answersOverlay_of_kept (exec_DXYN_error h) (exec_DXYN_error (hdraw.trans h)) rfl rfl rfl
    | ok c =>
      refine ⟨_, d, e, true, exec_DXYN_ok h, (exec_DXYN_ok (hdraw.trans h)).trans ?_, .inr ⟨setCollision_DT .., rfl⟩,
        .inr ⟨setCollision_ST .., rfl⟩, .inl rfl⟩
      cases c.hit <;> rfl
  | _ => exact answersOverlay_of_kept rfl rfl rfl rfl rfl

/-! ### Whole steps -/

/-- One timer of the tick (R294). -/
def tickByte (b : Byte) : Byte := if b = 0x00#8 then b else b - 1#8

theorem tick_overlay (d e : Byte) (y : Bool) (s : State) :
    tick (overlay d e y s) = overlay (tickByte d) (tickByte e) y (tick s) := rfl

theorem eq_of_writtenOrKept {α : Type} {a a' b' : α} (h : WrittenOrKept a a a' b') : b' = a' := by
  obtain h | ⟨ha, hb⟩ := h
  · exact h
  · exact hb.trans ha.symm

/-- Two running machines that differ only in ST, in the dirty flag, and in the outputs that a step begins by
clearing: they fetch the same word, take the same fault or run the same instruction, and are ticked. -/
theorem step_overlay {s v : State} {e : Byte} {y : Bool} (hs : s.Running)
    (hv : beginStep v = overlay s.DT e y (beginStep s)) :
    ∃ t e' y', step s = .next t ∧ step v = .next (overlay t.DT e' y' t) ∧ (e = s.ST → e' = t.ST) ∧
      WrittenOrKept s.dirty y t.dirty y' := by
  have hvs : v.Running := (congrArg State.status hv).trans hs
  have hfetch : fetchWord v = fetchWord s := by
    rw [← fetchWord_beginStep v, hv]
    rfl
  cases hf : fetchWord s with
  | error c =>
    refine ⟨_, e, y, step_of_fetch_error hs hf, ?_, id, .inr ⟨rfl, rfl⟩⟩
    rw [step_of_fetch_error hvs (hfetch.trans hf), hv]
    rfl
  | ok op =>
    cases hd : decode op with
    | error r =>
      refine ⟨_, tickByte e, y, step_of_decode_error hs hf hd, ?_, congrArg tickByte, .inr ⟨rfl, rfl⟩⟩
      rw [step_of_decode_error hvs (hfetch.trans hf) hd, hv]
      rfl
    | ok i =>
      obtain ⟨u, d', e', y', hexec, hexec', hDT, hST, hdirty⟩ := exec_overlay i s.DT e y (beginStep s) (.inr rfl)
      obtain rfl : d' = u.DT := eq_of_writtenOrKept hDT
      have hST' : e = s.ST → e' = u.ST := by
        rintro rfl
        exact eq_of_writtenOrKept hST
      rw [step_of_decode hs hf hd, step_of_decode hvs (hfetch.trans hf) hd, hv, hexec, hexec']
      cases hu : u.status with
      | running =>
        have hu' : (overlay u.DT e' y' u).status = .running := hu
        rw [completeStep_running hu, completeStep_running hu', tick_overlay]
        exact ⟨_, tickByte e', y', rfl, rfl, fun he => congrArg tickByte (hST' he), hdirty⟩
      | faulted r => exact ⟨_, e', y', completeStep_faulted hu, completeStep_faulted hu, hST', hdirty⟩

/-- Settles O25: the first half steps two machines that differ in ST, the second runs an instruction from two states
that differ in DT; what the two answers hold beside that timer is the same. -/
theorem timersAreNotReadByOtherInstructions : Obligations.TimersAreNotReadByOtherInstructions := by
  refine ⟨fun s b => ?_, fun i s b h => ?_⟩
  · cases hs : s.status with
    | faulted r => exact ⟨_, _, step_faulted hs, step_faulted (s := s.setST b) hs, rfl⟩
    | running =>
      obtain ⟨t, e', y', hstep, hstep', -, hdirty⟩ := step_overlay (v := s.setST b) (e := b) (y := s.dirty) hs rfl
      obtain rfl : y' = t.dirty := eq_of_writtenOrKept hdirty
      exact ⟨t, _, hstep, hstep', rfl⟩
  · obtain ⟨t, d', e', y', hexec, hexec', -, hST, hdirty⟩ := exec_overlay i b s.ST s.dirty s (.inl h)
    obtain rfl : e' = t.ST := eq_of_writtenOrKept hST
    obtain rfl : y' = t.dirty := eq_of_writtenOrKept hdirty
    exact ⟨t, _, hexec, hexec', rfl⟩

/-- Settles O26: a step begins by clearing the outputs, and the dirty flags end alike or are both kept. -/
theorem dirtyAndOutputsAreNotRead : Obligations.DirtyAndOutputsAreNotRead := by
  intro s d w g hs
  obtain ⟨t, e', y', hstep, hstep', hST, hdirty⟩ :=
    step_overlay (v := { s with dirty := d, drew := w, diag := g }) (e := s.ST) (y := d) hs rfl
  obtain rfl := hST rfl
  exact ⟨t, _, hstep, hstep', rfl, hdirty⟩

end Sys2Proof.Proofs
end
